-- ==== Sys2Proof/Word.lean ====
section
/-! DEFINITION. The widths the encoding fixes, by name (00_scope.md R8), and the word types of the block: the command
word, the response word, the pin selector, the byte, the pixel. All values are unsigned; bit 0 is the least significant bit
(00_scope.md R10). -/

namespace Sys2Proof

/-- `CMD_BITS`, width of a command word (00_scope.md R8, 30_encoding.md R49). -/
@[simp] abbrev Config.cmdBits : Nat := 32

/-- `RSP_BITS`, width of a response word (00_scope.md R8, 30_encoding.md R58). -/
@[simp] abbrev Config.rspBits : Nat := 32

/-- `PIN_BITS`, width of the pin selector (00_scope.md R8, 10_state.md R16). -/
@[simp] abbrev Config.pinBits : Nat := 8

/-- A command word, `CMD_BITS` bits (30_encoding.md R49). -/
abbrev Word := BitVec Config.cmdBits

/-- A response word, `RSP_BITS` bits (30_encoding.md R58). -/
abbrev RspWord := BitVec Config.rspBits

/-- A pin selector, `PIN_BITS` bits (10_state.md R16). -/
abbrev Pin := BitVec Config.pinBits

/-- One 8-bit channel or wire byte (00_scope.md R7). -/
abbrev Byte := BitVec 8

/-- One pixel register, 24 bits, packed red, green, blue from the top (10_state.md R17). -/
abbrev Pixel := BitVec 24

end Sys2Proof
end

