-- ==== Sys2Proof/Config.lean ====
section
/-! DEFINITION. What is fixed for one machine: the configuration fields of 00_scope.md R8 with their defaults, the fixed
parameters of R7, and the one free value, the content of the pixel registers after a reset
(93_implementation_defined.md U3). -/

namespace Sys2Proof

/-- The parameters the spec leaves open, "each as a configuration field with the default given here" (00_scope.md R8, U16).
A state holds the configuration it runs under (`State.cfg`, log 6). Legality is checked in WellFormed.lean (R9). -/
structure Params where
  /-- `N_MAX`: capacity of the pixel buffer and largest legal `led_count` (D9). -/
  nMax       : Nat := 25
  /-- `TICK_HZ`: frequency of the block's clock (D3). -/
  tickHz     : Nat := 8000000
  /-- `CELL_TICKS`: ticks per transmitted bit (D3). -/
  cellTicks  : Nat := 10
  /-- `T0H`: ticks the line is high in the cell of a 0 bit (D4). PRESUMED by the spec itself (G2), log 13. -/
  t0h        : Nat := 2
  /-- `T1H`: ticks the line is high in the cell of a 1 bit (D4). PRESUMED by the spec itself (G2), log 13. -/
  t1h        : Nat := 7
  /-- `RESET_TICKS`: ticks of idle line after the last bit cell (D5). -/
  resetTicks : Nat := 800
  /-- `PIN_BITS`: width of the pin selector (D10). -/
  pinBits    : Nat := Config.pinBits
  /-- `CMD_BITS`: width of a command word (D6). -/
  cmdBits    : Nat := Config.cmdBits
  /-- `RSP_BITS`: width of a response word (D7). -/
  rspBits    : Nat := Config.rspBits
  deriving DecidableEq, Repr

namespace Config

/-- `LED_COUNT`, the panel's LED count (R7). -/
abbrev ledCount : Nat := 25

/-- `GRID_W` and `GRID_H`, the sides of the logical grid (R7). -/
abbrev gridW : Nat := 5
abbrev gridH : Nat := 5

/-- `BIT_RATE` in Hz (R7). -/
abbrev bitRate : Nat := 800000

/-- The default configuration of R8, which alone is the hardware of the document (R9). -/
def hw : Params := {}

/-- FREE VALUE (log 2): what pixel register `i` holds after the `k`-th reset (0: the reset the run starts from). The
spec gives none and says that none may be assumed (10_state.md R30, 70_reset_and_hazards.md R116, U3); it is stable until
written. -/
opaque resetPixel (k i : Nat) : Pixel

end Config

end Sys2Proof
end

