-- ==== Sys2Proof/Syntax.lean ====
section
/-! DEFINITION. The seven commands (30_encoding.md R57, opcode_table.json), one constructor per row, and the lines of
the spec's textual form with the pseudo-instruction SETXY (R62, R63). -/

namespace Sys2Proof

/-- A command. Operand widths are those of the encoding fields (R51 to R55), so every term is encodable; values outside
the document's domains are commands that fault in execution (R56). Operands stand in the document's argument order. -/
inductive Instr where
  /-- `INIT pin, led_count`, format I (R51, R65). -/
  | init (pin : Pin) (ledCount : BitVec 8)
  /-- `CLEAR`, format Z (R52, R70). -/
  | clear
  /-- `SETPIX index, r, g, b`, format P (R53, R71). -/
  | setpix (index : BitVec 5) (r g b : Byte)
  /-- `WRITE`, format Z (R52, R76). -/
  | write
  /-- `MAP x, y`, format M, `x` the column and `y` the row (R55, R93). -/
  | map (x y : BitVec 3)
  /-- `RDPIX index`, format X (R54, R72). -/
  | rdpix (index : BitVec 5)
  /-- `RDSTAT`, format Z (R52, R67). -/
  | rdstat
  deriving DecidableEq, Repr

/-- One line of a program in the spec's textual form (R62), operands as the numbers written, and the pseudo-instruction
`SETXY x, y, r, g, b` (R63). A number may be too large for its field; WellFormed.lean refuses such a line. -/
inductive AsmLine where
  | init (pin ledCount : Nat)
  | clear
  | setpix (index r g b : Nat)
  | write
  | map (x y : Nat)
  | rdpix (index : Nat)
  | rdstat
  | setxy (x y r g b : Nat)
  deriving DecidableEq, Repr

end Sys2Proof
end

