-- ==== Sys2Proof/WellFormed.lean ====
section
/-! DEFINITION. The checks on what is written down before the machine runs: a configuration is legal (00_scope.md R9),
and a program line's operands fit their fields (30_encoding.md R51 to R55, R62, R63). A term of `Instr` needs no check:
its operand types are the fields. -/

namespace Sys2Proof

/-- Legal configuration, every condition of R9. The last one is `RESET_TICKS / TICK_HZ ≥ 100 µs` without division,
so `TICK_HZ = 0`, for which R9's quotient has no value, is accepted as legal. DESIGN CHOICE, log 19. -/
def Params.legal (p : Params) : Bool :=
  decide (1 ≤ p.nMax) && decide (p.nMax ≤ 31)
    && decide (0 < p.t0h) && decide (p.t0h < p.t1h) && decide (p.t1h < p.cellTicks) && decide (p.cellTicks ≤ 16)
    && decide (1 ≤ p.resetTicks) && decide (p.resetTicks ≤ 1024)
    && decide (p.tickHz ≤ p.resetTicks * 10000)

/-- `CELL_TICKS / TICK_HZ = 1 / BIT_RATE`, the constraint on `TICK_HZ` (R8, D3, 92_eei_decisions.md, open parameters). -/
def Params.bitRateKept (p : Params) : Bool := decide (p.cellTicks * Config.bitRate = p.tickHz)

/-- The widths are those of the encoding: the formats of 30_encoding.md place `PIN` in 8 bits (R51) and give every command
and response 32 bits (R49, R58), so no other width has words. DEDUCED, log 6. -/
def Params.encodable (p : Params) : Bool :=
  decide (p.pinBits = Config.pinBits) && decide (p.cmdBits = Config.cmdBits) && decide (p.rspBits = Config.rspBits)

/-- A program line is well-formed when every operand fits its field; SETXY's coordinates must lie on the grid, or "the
assembler refuses the line" (R63). -/
def AsmLine.wellFormed : AsmLine → Bool
  | .init pin ledCount => decide (pin < 256) && decide (ledCount < 256)
  | .clear => true
  | .setpix index r g b => decide (index < 32) && decide (r < 256) && decide (g < 256) && decide (b < 256)
  | .write => true
  | .map x y => decide (x < 8) && decide (y < 8)
  | .rdpix index => decide (index < 32)
  | .rdstat => true
  | .setxy x y r g b =>
      decide (x ≤ 4) && decide (y ≤ 4) && decide (r < 256) && decide (g < 256) && decide (b < 256)

end Sys2Proof
end

