-- ==== Sys2Proof/Decode.lean ====
section
/-! DEFINITION. The decoder, total on all 2^32 words and rejecting by name (30_encoding.md R57, R60), then the encoder
written from the formats R51 to R55. There is one length, 32 bits (R49). -/

namespace Sys2Proof

/-- One row of the opcode map R57: a word `w` is the instruction exactly when `w and mask = pattern`. -/
structure OpRow where
  mnemonic : String
  pattern  : Word
  mask     : Word
  deriving DecidableEq, Repr

/-- Why a word is illegal (R60). -/
inductive Illegal where
  /-- `OPC = 0b000`. -/
  | opcodeZero
  /-- The opcode is that of the named command and a must-be-zero bit is set. -/
  | mustBeZero (mnemonic : String)
  deriving DecidableEq, Repr

def OpRow.hits (row : OpRow) (w : Word) : Bool := w &&& row.mask == row.pattern

def rowInit   : OpRow := ⟨"INIT",   0x20000000#32, 0xFFFF0000#32⟩
def rowClear  : OpRow := ⟨"CLEAR",  0x40000000#32, 0xFFFFFFFF#32⟩
def rowSetpix : OpRow := ⟨"SETPIX", 0x60000000#32, 0xE0000000#32⟩
def rowWrite  : OpRow := ⟨"WRITE",  0x80000000#32, 0xFFFFFFFF#32⟩
def rowMap    : OpRow := ⟨"MAP",    0xA0000000#32, 0xFFFFFFC0#32⟩
def rowRdpix  : OpRow := ⟨"RDPIX",  0xC0000000#32, 0xE0FFFFFF#32⟩
def rowRdstat : OpRow := ⟨"RDSTAT", 0xE0000000#32, 0xFFFFFFFF#32⟩

/-- The opcode map, complete (R57). -/
def opcodeMap : List OpRow := [rowInit, rowClear, rowSetpix, rowWrite, rowMap, rowRdpix, rowRdstat]

/-- The opcode field `OPC = CMD_WORD[31:29]` (R50). -/
def opc (w : Word) : BitVec 3 := w.extractLsb' 29 3

/-- The name of the rejection of a word no row matches: `OPC = 0b000`, or a must-be-zero bit of the command `OPC`
names (R60). -/
def illegalReason (w : Word) : Illegal :=
  match opcodeMap.find? (fun row => opc row.pattern == opc w) with
  | some row => .mustBeZero row.mnemonic
  | none => .opcodeZero

/-- The decoder: the row that matches, its operand fields cut out (R51 to R57), or a named rejection (R60). -/
def decode (w : Word) : Except Illegal Instr :=
  if rowInit.hits w then .ok (.init (w.extractLsb' 8 8) (w.extractLsb' 0 8))
  else if rowClear.hits w then .ok .clear
  else if rowSetpix.hits w then
    .ok (.setpix (w.extractLsb' 24 5) (w.extractLsb' 16 8) (w.extractLsb' 8 8) (w.extractLsb' 0 8))
  else if rowWrite.hits w then .ok .write
  else if rowMap.hits w then .ok (.map (w.extractLsb' 0 3) (w.extractLsb' 3 3))
  else if rowRdpix.hits w then .ok (.rdpix (w.extractLsb' 24 5))
  else if rowRdstat.hits w then .ok .rdstat
  else .error (illegalReason w)

/-- The field `v` with its least significant bit at bit `lo` of the word (R56: contiguous, neither scaled nor split). -/
def fieldAt {k : Nat} (v : BitVec k) (lo : Nat) : Word := v.setWidth Config.cmdBits <<< lo

/-- The encoder, field by field from bit 31 down, as the tables of R51 to R55 lay the words out; must-be-zero fields are the
bits no field sets. -/
def encode : Instr → Word
  | .init pin ledCount => fieldAt 0b001#3 29 ||| fieldAt pin 8 ||| fieldAt ledCount 0
  | .clear => fieldAt 0b010#3 29
  | .setpix index r g b =>
    fieldAt 0b011#3 29 ||| fieldAt index 24 ||| fieldAt r 16 ||| fieldAt g 8 ||| fieldAt b 0
  | .write => fieldAt 0b100#3 29
  | .map x y => fieldAt 0b101#3 29 ||| fieldAt y 3 ||| fieldAt x 0
  | .rdpix index => fieldAt 0b110#3 29 ||| fieldAt index 24
  | .rdstat => fieldAt 0b111#3 29

/-- The row of the opcode map an instruction belongs to (R57). -/
def rowOf : Instr → OpRow
  | .init _ _ => rowInit
  | .clear => rowClear
  | .setpix _ _ _ _ => rowSetpix
  | .write => rowWrite
  | .map _ _ => rowMap
  | .rdpix _ => rowRdpix
  | .rdstat => rowRdstat

/-- The command word of `nbits` bits that a table word `w` stands for, bits above `nbits` zero. A command is one 32-bit
word on a port, so the table's numbering is the port's numbering (R49, log 11). -/
def portWord (nbits w : Nat) : Word := BitVec.ofNat Config.cmdBits (w % 2 ^ nbits)

/-- The instruction the decoder reads from the table word `w` of `nbits` bits; no command is longer than 32 bits (R49). -/
def decodeTableWord (nbits w : Nat) : Option Instr :=
  if nbits ≤ Config.cmdBits then (decode (portWord nbits w)).toOption else none

end Sys2Proof
end

