-- ==== Sys2Proof/Machine/State.lean ====
section
/-! DEFINITION. The state of the block (10_state.md R13 to R23, R30), the observation (R27, 70 R129), and the ports'
future as plain data (R24, R28, R29). -/

namespace Sys2Proof.Machine

/-- `MODE` (10_state.md R14). The value 3 is never held and has no constructor. DEDUCED, log 7. -/
inductive Mode where
  | uninit | ready | fatal
  deriving DecidableEq, Repr

/-- `PHASE` (10_state.md R19). The value 3 is never held and has no constructor. DEDUCED, log 7. -/
inductive Phase where
  | idle | shift | gap
  deriving DecidableEq, Repr

/-- `CUR_BYTE`, which wire byte of the pixel: `0 = green`, `1 = red`, `2 = blue` (10_state.md R21). DEDUCED, log 7. -/
inductive WireByte where
  | green | red | blue
  deriving DecidableEq, Repr

/-- The serializer cursor `pc = (CUR_PIX, CUR_BYTE, CUR_BIT, TICK)` (10_state.md R21). -/
structure Cursor where
  pix  : BitVec 5
  byte : WireByte
  bit  : BitVec 3
  tick : BitVec 4
  deriving DecidableEq, Repr

/-- One element of the wire history: `Z` (not driven), `0` or `1` (10_state.md R27). -/
inductive Level where
  | z | low | high
  deriving DecidableEq, Repr

/-- The six faults of a command with the value each records (60_exceptions.md R100). They are answers of the block, not
stops of the model: each is taken by `takeFault` (Ops.lean) and the step goes on. -/
inductive CmdFault where
  | illegalCommand (word : Word)
  | stateError (mode : Mode)
  | indexRange (index : BitVec 5)
  | coordRange (x y : BitVec 3)
  | configError (ledCount : BitVec 8)
  | noTimingResource
  deriving DecidableEq, Repr

/-- How a command ends: `Respond(OK, data)` or a fault (00_scope.md R11, 30_encoding.md R58). -/
inductive Answer where
  | ok (data : BitVec 24)
  | fault (f : CmdFault)
  deriving DecidableEq, Repr

/-- One entry of the list of responses (70_reset_and_hazards.md R129) with the tick it was given in. -/
structure Response where
  tick   : Nat
  answer : Answer
  deriving DecidableEq, Repr

/-- One accepted command word with the tick it was accepted in (30_encoding.md R64, 70_reset_and_hazards.md R129). -/
structure Accepted where
  tick : Nat
  word : Word
  deriving DecidableEq, Repr

/-- The input ports in one tick (10_state.md R24); `CLK` is the step itself. -/
structure PortIn where
  rst      : Bool
  cmdValid : Bool
  cmdWord  : Word
  tgAvail  : Bool
  deriving DecidableEq, Repr

/-- What the host does next (30_encoding.md R64: it may hold a word until it is accepted, or withdraw it).
DESIGN CHOICE, log 1. -/
inductive HostAct where
  /-- Put these values on the ports for one tick, whatever becomes of them. -/
  | pins (p : PortIn)
  /-- Present this word, with this `TG_AVAIL`, until the tick it is accepted in. -/
  | hold (word : Word) (tgAvail : Bool)
  deriving DecidableEq, Repr

/-- Where the model stops although the spec describes no stop. -/
inductive Fault where
  /-- Raised by CLEAR, SETPIX, RDPIX and a SHIFT tick on an access to `x[i]` with `i ≥ N_MAX`, a register the spec says
  does not exist (10_state.md R17). Safe: every legal state has `LEDCNT ≤ N_MAX` (R15), so no run reaches it. Log 8. -/
  | noSuchPixel (i : Nat)
  deriving DecidableEq, Repr

/-- Reasons to refuse an instruction. -/
inductive Refusal where
  /-- Answered by an arm of `exec` whose instruction has no meaning yet. Safe. No arm answers it. -/
  | notModelled (mnemonic : String)
  deriving DecidableEq, Repr

/-- The state: the configuration it runs under (00_scope.md R8), the block's 645 bits (10_state.md R13), the record (R27,
R129), and the model's own two fields. -/
structure State where
  /-- The configuration fields (00_scope.md R8, U16). Fixed for the machine: no tick changes them. Log 6. -/
  cfg     : Params
  /-- `MODE` (R14). -/
  mode    : Mode
  /-- `LEDCNT` (R15). -/
  ledcnt  : BitVec 8
  /-- `PINSEL` (R16). -/
  pinsel  : Pin
  /-- `x[0] .. x[N_MAX-1]` (R17): as many as the configuration says in every legal state (Safety.lean, `State.Inv`). -/
  pixels  : List Pixel
  /-- `PHASE` (R19). -/
  phase   : Phase
  /-- The cursor `pc` (R21). -/
  pc      : Cursor
  /-- `GAPCNT` (R22). -/
  gapcnt  : BitVec 10
  /-- `DOUT_OE` (R23). -/
  doutOe  : Bool
  /-- `WIRE` (R27), the newest element first. Nothing in the block reads it. Log 4. -/
  wireRev : List Level
  /-- The responses given (R129), the newest first. Nothing in the block reads them. Log 4. -/
  rspsRev : List Response
  /-- The commands accepted (R64, R129), the newest first. Nothing in the block reads them. Log 4. -/
  acceptedRev : List Accepted
  /-- What the host will do (R28, R29). The model's own field, log 1. -/
  host    : List HostAct
  /-- How many RST ticks there have been: the index of the free pixel contents. The model's own field, log 2. -/
  resets  : Nat
  deriving DecidableEq, Repr

/-- The cursor's value whenever `PHASE ≠ SHIFT` (R21). -/
def Cursor.idle : Cursor := ⟨0, .green, 7, 0⟩

/-- The `n` pixel registers after the `k`-th reset: free values (R30, U3, log 2). -/
def resetPixels (n k : Nat) : List Pixel := (List.range n).map (Config.resetPixel k)

/-- Every field at its reset value under configuration `p` (R30, R116), nothing on the record and no host act. -/
def State.resetAt (p : Params) (k : Nat) : State where
  cfg := p
  mode := .uninit
  ledcnt := 0
  pinsel := 0
  pixels := resetPixels p.nMax k
  phase := .idle
  pc := Cursor.idle
  gapcnt := 0
  doutOe := false
  wireRev := []
  rspsRev := []
  acceptedRev := []
  host := []
  resets := k

/-- The machine right after reset, at the start of the first tick with `RST = 0` (R30, log 10), in the default configuration,
"the hardware of the document" (00_scope.md R9). -/
def State.reset : State := State.resetAt Config.hw 0

end Sys2Proof.Machine
end

