-- ==== Sys2Proof/Machine/Flags.lean ====
section
/-! DEFINITION. The block has no flags register and no condition codes (10_state.md R26): no command writes a flag. What
stands here are the status signals, functions of the state and of the input ports (R20, R24, R25). -/

namespace Sys2Proof.Machine

/-- Ports with no command and `RST = 0`. -/
def PortIn.idle : PortIn := ⟨false, false, 0, false⟩

def HostAct.port : HostAct → PortIn
  | .pins p => p
  | .hold w tg => ⟨false, true, w, tg⟩

/-- The input ports in this tick: the host's next act, or an idle port when it has none (R24, R28; log 1). -/
def State.port (s : State) : PortIn :=
  match s.host with
  | [] => PortIn.idle
  | a :: _ => a.port

/-- `BUSY = (PHASE ≠ IDLE)` (R20). -/
def State.busy (s : State) : Bool := s.phase != .idle

/-- `CMD_READY = (MODE ≠ FATAL) and (PHASE = IDLE) and (RST = 0)` (R20). -/
def State.cmdReady (s : State) : Bool := s.mode != .fatal && s.phase == .idle && !s.port.rst

/-- `FATAL_OUT = (MODE = FATAL)` (R20). -/
def State.fatalOut (s : State) : Bool := s.mode == .fatal

/-- A command is accepted exactly when `CMD_VALID = 1` and `CMD_READY = 1` (R20, 30_encoding.md R64). -/
def State.accepts (s : State) : Bool := s.port.cmdValid && s.cmdReady

/-- The 2-bit value of `MODE` (R14). -/
def Mode.bits : Mode → BitVec 2
  | .uninit => 0
  | .ready => 1
  | .fatal => 2

/-- The 2-bit value of `PHASE` (R19). -/
def Phase.bits : Phase → BitVec 2
  | .idle => 0
  | .shift => 1
  | .gap => 2

/-- The 2-bit value of `CUR_BYTE` (R21). -/
def WireByte.bits : WireByte → BitVec 2
  | .green => 0
  | .red => 1
  | .blue => 2

/-- The status view, `LEDCNT` in bits 7:0, `PINSEL` in 15:8, `MODE` in 17:16, bits 23:18 zero (R25). -/
def State.statusView (s : State) : BitVec 24 := 0#6 ++ s.mode.bits ++ s.pinsel ++ s.ledcnt

end Sys2Proof.Machine
end

