-- ==== Sys2Proof/Machine/Operands.lean ====
section
/-! DEFINITION. Operand forms and the layout of values: the packing of a pixel (10_state.md R17, 00_scope.md R11), its
three channels and wire bytes (20_memory.md R33), the range checks on operands (60_exceptions.md R102, R103, R105) and
the response word (30_encoding.md R58, R59). -/

namespace Sys2Proof.Machine

/-- `{r, g, b}`, red most significant (R17, D19). -/
def packRgb (r g b : Byte) : Pixel := r ++ g ++ b

/-- `R(x[i]) = x[i][23:16]` (R11). -/
def pixelR (p : Pixel) : Byte := p.extractLsb' 16 8

/-- `G(x[i]) = x[i][15:8]` (R11). -/
def pixelG (p : Pixel) : Byte := p.extractLsb' 8 8

/-- `B(x[i]) = x[i][7:0]` (R11). -/
def pixelB (p : Pixel) : Byte := p.extractLsb' 0 8

/-- `wirebyte(i, k)` of a pixel: green, red, blue in the order sent (20_memory.md R33). -/
def wireByte (p : Pixel) : WireByte → Byte
  | .green => pixelG p
  | .red => pixelR p
  | .blue => pixelB p

/-- The index operand is out of range: `index ≥ LEDCNT` (R102). Operands are zero-extended (R56). -/
def indexOut (index : BitVec 5) (s : State) : Bool := decide (s.ledcnt.toNat ≤ index.toNat)

/-- A coordinate is off the 5×5 grid: `x > 4` or `y > 4` (R103). -/
def coordOut (x y : BitVec 3) : Bool := decide (4 < x.toNat) || decide (4 < y.toNat)

/-- The count is not one the buffer can hold: `led_count = 0` or `led_count > N_MAX` (R105). -/
def countBad (ledCount : BitVec 8) (s : State) : Bool :=
  decide (ledCount.toNat = 0) || decide (s.cfg.nMax < ledCount.toNat)

/-- The response code of a fault (30_encoding.md R59). -/
def CmdFault.code : CmdFault → BitVec 4
  | .illegalCommand _ => 1
  | .stateError _ => 2
  | .indexRange _ => 3
  | .coordRange _ _ => 4
  | .configError _ => 5
  | .noTimingResource => 6

/-- `RSP_WORD = {CODE[3:0], 0b0000, DATA[23:0]}`; a fault's data is zero (R58). -/
def Answer.word : Answer → RspWord
  | .ok data => 0#4 ++ 0#4 ++ data
  | .fault f => f.code ++ 0#4 ++ 0#24

end Sys2Proof.Machine
end

