-- ==== Sys2Proof/Machine/Ops.lean ====
section
/-! DEFINITION. The named operations every meaning is written over: the record (WIRE, responses), the pixel registers,
responding, TAKING A FAULT (the spec's `raise`), the gate of acceptance, and reset. -/

namespace Sys2Proof.Machine

/-- What a meaning answers. -/
abbrev Out := Host.Outcome State Fault Refusal

/-- Go on from a next state; a stop stays as it is. -/
def onNext (f : State → State) : Out → Out
  | .next s => .next (f s)
  | .fault r => .fault r
  | .refused r => .refused r

/-- `WIRE`, oldest element first (10_state.md R27). -/
def State.wire (s : State) : List Level := s.wireRev.reverse

/-- The list of responses, oldest first (70_reset_and_hazards.md R129). -/
def State.rsps (s : State) : List Response := s.rspsRev.reverse

/-- The commands accepted, oldest first (70_reset_and_hazards.md R129). -/
def State.accepted (s : State) : List Accepted := s.acceptedRev.reverse

/-- The number of this tick: `WIRE` has one element per tick before it (R27). -/
def State.now (s : State) : Nat := s.wireRev.length

/-- `x[i]`, nothing where the register does not exist (R17). -/
def State.pixel? (s : State) (i : Nat) : Option Pixel := s.pixels[i]?

/-- `x[i] <- v`; a register that does not exist is a fault of the model (log 8). -/
def State.setPixel (s : State) (i : Nat) (v : Pixel) : Out :=
  if i < s.pixels.length then .next { s with pixels := s.pixels.set i v } else .fault (.noSuchPixel i)

/-- The loop `for i in 0 .. n-1: x[i] <- 0x000000` of CLEAR (41_pixel_buffer.md R70). -/
def clearBelow : Nat → List Pixel → List Pixel
  | 0, v => v
  | n + 1, v => (clearBelow n v).set n 0

/-- `Respond(code, data)`: the answer goes on the record with this tick's number (00_scope.md R11). -/
def respond (a : Answer) (s : State) : State := { s with rspsRev := ⟨s.now, a⟩ :: s.rspsRev }

/-- `return data`, that is `Respond(OK, data)` (R11). -/
def respondOk (data : BitVec 24) (s : State) : State := respond (.ok data) s

/-- The mode a fault leaves: only `NoTimingResource` changes it, to FATAL (60_exceptions.md R104, R107). -/
def CmdFault.modeAfter (f : CmdFault) (m : Mode) : Mode :=
  match f with
  | .noTimingResource => .fatal
  | _ => m

/-- TAKING A FAULT, the spec's `raise` (00_scope.md R11, 60_exceptions.md R107): the command ends with the fault's code
and no state is written but `MODE <- FATAL` of `NoTimingResource`. Nothing is saved and there is no handler. There is no
return instruction either: the next command is accepted in the next tick (R108). -/
def takeFault (f : CmdFault) (s : State) : State := respond (.fault f) { s with mode := f.modeAfter s.mode }

/-- `raise f` as the end of a meaning. -/
def raise (f : CmdFault) (s : State) : Out := .next (takeFault f s)

/-- A command presented in a tick with `CMD_READY = 0` "is not accepted and has no effect" (30_encoding.md R64, R69, U13).
DEDUCED, log 9. -/
def ifReady (s : State) (body : Out) : Out := if s.cmdReady then body else .next s

/-- `MemRead(i, n)`: `n` consecutive pixels from index `i`, or `IndexRange(i)` when `i + n > LEDCNT` (R11). -/
def memRead (i : BitVec 5) (n : Nat) (s : State) : Except CmdFault (List Pixel) :=
  if s.ledcnt.toNat < i.toNat + n then .error (.indexRange i) else .ok ((s.pixels.drop i.toNat).take n)

/-- The pixels of `vs` written one after another from index `i` up. -/
def putPixels : Nat → List Pixel → List Pixel → List Pixel
  | _, [], v => v
  | i, p :: vs, v => putPixels (i + 1) vs (v.set i p)

/-- `MemWrite(i, n, vs)`: the `n` pixels `vs` written from index `i`, or `IndexRange(i)` when `i + n > LEDCNT` (R11). -/
def memWrite (i : BitVec 5) (vs : List Pixel) (s : State) : Except CmdFault State :=
  if s.ledcnt.toNat < i.toNat + vs.length then .error (.indexRange i)
  else .ok { s with pixels := putPixels i.toNat vs s.pixels }

/-- What `RST = 1` does at the clock edge (70_reset_and_hazards.md R116): every piece of hardware state takes its reset
value, the pixel registers become unspecified anew. The configuration, the record and the host's acts are no hardware state
and stay. DEDUCED, log 5. -/
def resetBlock (s : State) : State :=
  { State.resetAt s.cfg (s.resets + 1) with
    wireRev := s.wireRev, rspsRev := s.rspsRev, acceptedRev := s.acceptedRev, host := s.host }

/-- The host's acts after this tick: a word held is kept until the tick it is accepted in (30_encoding.md R64, log 1). -/
def State.hostNext (s : State) : List HostAct :=
  match s.host with
  | [] => []
  | .pins _ :: rest => rest
  | .hold w tg :: rest => if s.accepts then rest else .hold w tg :: rest

end Sys2Proof.Machine
end

