-- ==== Sys2Proof/Machine/Buffer.lean ====
section
/-! DEFINITION. The pixel-buffer commands CLEAR, SETPIX and RDPIX (41_pixel_buffer.md). -/

namespace Sys2Proof.Machine

/-- CLEAR (R70): every pixel below `LEDCNT` in one step. -/
def execClear (s : State) : Out :=
  ifReady s <|
    if s.mode ≠ .ready then raise (.stateError s.mode) s
    else if s.pixels.length < s.ledcnt.toNat then .fault (.noSuchPixel s.pixels.length)
    else .next (respondOk 0 { s with pixels := clearBelow s.ledcnt.toNat s.pixels })

/-- SETPIX (R71): one pixel, all 24 bits at once. -/
def execSetpix (index : BitVec 5) (r g b : Byte) (s : State) : Out :=
  ifReady s <|
    if s.mode ≠ .ready then raise (.stateError s.mode) s
    else if indexOut index s then raise (.indexRange index) s
    else onNext (respondOk 0) (s.setPixel index.toNat (packRgb r g b))

/-- RDPIX (R72): one pixel read back, red in `DATA[23:16]`. No state is written. -/
def execRdpix (index : BitVec 5) (s : State) : Out :=
  ifReady s <|
    if s.mode ≠ .ready then raise (.stateError s.mode) s
    else if indexOut index s then raise (.indexRange index) s
    else
      match s.pixel? index.toNat with
      | some p => .next (respondOk p s)
      | none => .fault (.noSuchPixel index.toNat)

end Sys2Proof.Machine
end

