-- ==== Sys2Proof/Machine/Control.lean ====
section
/-! DEFINITION. The driver control commands INIT and RDSTAT (40_driver_control.md). -/

namespace Sys2Proof.Machine

/-- INIT (R65). The checks stand in the order of 60_exceptions.md R106; `TG_AVAIL` is sampled in this tick (R114). The
pixel registers are not written. -/
def execInit (pin : Pin) (ledCount : BitVec 8) (s : State) : Out :=
  ifReady s <|
    if s.mode ≠ .uninit then raise (.stateError s.mode) s
    else if countBad ledCount s then raise (.configError ledCount) s
    else if !s.port.tgAvail then raise .noTimingResource s
    else .next (respondOk 0 { s with ledcnt := ledCount, pinsel := pin, doutOe := true, mode := .ready })

/-- RDSTAT (R67): the status view of 10_state.md R25. No state is written. -/
def execRdstat (s : State) : Out :=
  ifReady s <| .next (respondOk s.statusView s)

end Sys2Proof.Machine
end

