-- ==== Sys2Proof/Machine/Mapper.lean ====
section
/-! DEFINITION. The coordinate mapper: the function `index(x, y)`, its inverse, and the command MAP
(43_coordinate_mapper.md). -/

namespace Sys2Proof.Machine

/-- `index(x, y)`, column `x`, row `y`, over the naturals (R93, R98). Used on the grid only (R94). -/
def mapIndex (x y : Nat) : Nat :=
  if y % 2 = 0 then 24 - (5 * y + x) else 24 - (5 * y + (4 - x))

/-- The inverse of R97: the position `(x, y)` of LED `idx`. -/
def mapPosition (idx : Nat) : Nat × Nat :=
  let k := 24 - idx
  let y := k / 5
  (if y % 2 = 0 then k % 5 else 4 - k % 5, y)

/-- MAP (R93): it reads and writes no state; off the grid the formula is not evaluated (R94). -/
def execMap (x y : BitVec 3) (s : State) : Out :=
  ifReady s <|
    if coordOut x y then raise (.coordRange x y) s
    else .next (respondOk (BitVec.ofNat 24 (mapIndex x.toNat y.toNat)) s)

end Sys2Proof.Machine
end

