-- ==== Sys2Proof/Machine/Serializer.lean ====
section
/-! DEFINITION. The timing encoder and the pixel-to-wire serializer, tick by tick (42_write_serializer.md R77 to R85). -/

namespace Sys2Proof.Machine

/-- `high(b)`: ticks the line is high in the cell of bit `b` (R77; PRESUMED by the spec itself, G1, log 13). -/
def highTicks (p : Params) (b : Bool) : Nat := if b then p.t1h else p.t0h

/-- `cell(b) = 1^high(b) ++ 0^(CELL_TICKS - high(b))` (R77). -/
def cell (p : Params) (b : Bool) : List Level :=
  List.replicate (highTicks p b) .high ++ List.replicate (p.cellTicks - highTicks p b) .low

/-- `bit = wirebyte(CUR_PIX, CUR_BYTE)[CUR_BIT]` of the pixel `p` under the cursor (R80). -/
def bitAt (p : Pixel) (c : Cursor) : Bool := (wireByte p c.byte).getLsbD c.bit.toNat

/-- `DOUT`: 1 only in a SHIFT tick with `TICK < high(bit)` (R80, 10_state.md R23). Under a cursor beyond the buffer, which
no legal state has, the SHIFT tick faults and this value goes nowhere (log 8). -/
def State.dout (s : State) : Bool :=
  match s.phase with
  | .shift =>
    match s.pixel? s.pc.pix.toNat with
    | some p => decide (s.pc.tick.toNat < highTicks s.cfg (bitAt p s.pc))
    | none => false
  | _ => false

/-- The element of `WIRE` this tick appends: `Z` while `RST = 1` (70 R116) or `DOUT_OE = 0`, else `DOUT` (R27, R85). -/
def State.level (s : State) : Level :=
  if s.port.rst then .z
  else if s.doutOe then (if s.dout then .high else .low)
  else .z

/-- G -> R -> B, nothing after B (R81). -/
def WireByte.next? : WireByte → Option WireByte
  | .green => some .red
  | .red => some .blue
  | .blue => none

/-- Cursor advance in a SHIFT tick (R81); nothing when the last tick of the last bit of the last pixel is done. The
comparison `CUR_PIX < LEDCNT - 1` is written `CUR_PIX + 1 < LEDCNT`. -/
def Cursor.advance (p : Params) (ledcnt : BitVec 8) (c : Cursor) : Option Cursor :=
  if c.tick.toNat < p.cellTicks - 1 then some { c with tick := c.tick + 1 }
  else if 0 < c.bit.toNat then some { c with bit := c.bit - 1, tick := 0 }
  else
    match c.byte.next? with
    | some b => some { c with byte := b, bit := 7, tick := 0 }
    | none => if c.pix.toNat + 1 < ledcnt.toNat then some ⟨c.pix + 1, .green, 7, 0⟩ else none

/-- A SHIFT tick (R81, R82). -/
def shiftTick (s : State) : Out :=
  if s.pc.pix.toNat < s.pixels.length then
    match s.pc.advance s.cfg s.ledcnt with
    | some c => .next { s with pc := c }
    | none => .next { s with pc := Cursor.idle, phase := .gap, gapcnt := 0 }
  else .fault (.noSuchPixel s.pc.pix.toNat)

/-- A GAP tick; the last one gives WRITE's response (R83, R84). -/
def gapTick (s : State) : Out :=
  if s.gapcnt.toNat < s.cfg.resetTicks - 1 then .next { s with gapcnt := s.gapcnt + 1 }
  else .next (respondOk 0 { s with gapcnt := 0, phase := .idle })

/-- The serializer's step: enabled exactly when `PHASE ≠ IDLE` (R79); an idle tick changes nothing (R85). -/
def serialize (s : State) : Out :=
  match s.phase with
  | .idle => .next s
  | .shift => shiftTick s
  | .gap => gapTick s

end Sys2Proof.Machine
end

