-- ==== Sys2Proof/Machine/Write.lean ====
section
/-! DEFINITION. The command WRITE (42_write_serializer.md R76) and what it puts on the wire (R36, R86, R89). -/

namespace Sys2Proof.Machine

/-- WRITE, the command step (R76): the serializer runs from the next tick and gives the response when the gap has been
held; none is given now. -/
def execWrite (s : State) : Out :=
  ifReady s <|
    if s.mode ≠ .ready then raise (.stateError s.mode) s
    else .next { s with phase := .shift, pc := Cursor.idle }

/-- The three wire bytes of a pixel, in the order sent (20_memory.md R33). -/
def pixelBytes (p : Pixel) : List Byte := [wireByte p .green, wireByte p .red, wireByte p .blue]

/-- The eight bits of a byte, most significant first (R34). -/
def byteBits (b : Byte) : List Bool := [7, 6, 5, 4, 3, 2, 1, 0].map b.getLsbD

/-- `frame_bytes`: ascending index, green red blue (R35, R36). -/
def State.frameBytes (s : State) : List Byte := (s.pixels.take s.ledcnt.toNat).flatMap pixelBytes

/-- `frame_bits` (R36). -/
def State.frameBits (s : State) : List Bool := s.frameBytes.flatMap byteBits

/-- The cells of a sequence of bits, one after another (R86). -/
def cells (p : Params) (bits : List Bool) : List Level := bits.flatMap (cell p)

/-- What one WRITE puts on the wire after its accepting tick: the cells, then the reset gap (R86). -/
def State.frameWave (s : State) : List Level := cells s.cfg s.frameBits ++ List.replicate s.cfg.resetTicks .low

/-- The ticks from a WRITE's accepting tick to its response: `24 × LEDCNT × CELL_TICKS + RESET_TICKS` (R84). -/
def State.writeTicks (s : State) : Nat := 24 * s.ledcnt.toNat * s.cfg.cellTicks + s.cfg.resetTicks

/-- A symbol of the one-wire protocol (R89). -/
inductive Symbol where
  | bit (b : Bool)
  | reset
  deriving DecidableEq, Repr

/-- Maximal runs of equal levels with their lengths (R88, R89). -/
def levelRuns : List Level → List (Level × Nat)
  | [] => []
  | l :: rest =>
    match levelRuns rest with
    | [] => [(l, 1)]
    | (l', n) :: more => if l = l' then (l', n + 1) :: more else (l, 1) :: (l', n) :: more

/-- The bit a high run of this length stands for: exactly `T0H` or exactly `T1H` ticks (R89). Another length is no symbol.
DESIGN CHOICE, log 17. -/
def runBit (p : Params) (n : Nat) : List Symbol :=
  if n = p.t0h then [.bit false] else if n = p.t1h then [.bit true] else []

/-- The symbols of a sequence of runs: a high run followed by low is a bit, a low run of at least `RESET_TICKS` after a bit
is `Reset` (R89). -/
def runSymbols (p : Params) : List (Level × Nat) → List Symbol
  | [] => []
  | (.high, n) :: rest =>
    match rest with
    | (.low, m) :: _ =>
      runBit p n ++ (if runBit p n ≠ [] ∧ p.resetTicks ≤ m then [.reset] else []) ++ runSymbols p rest
    | _ => runSymbols p rest
  | (_, _) :: rest => runSymbols p rest

/-- `WIRE` read as symbols (R89). -/
def symbols (p : Params) (wire : List Level) : List Symbol := runSymbols p (levelRuns wire)

/-- Bits grouped by eight, most significant first (R89). -/
def groupBytes : List Bool → List Byte
  | b7 :: b6 :: b5 :: b4 :: b3 :: b2 :: b1 :: b0 :: rest =>
    (BitVec.ofBool b7 ++ BitVec.ofBool b6 ++ BitVec.ofBool b5 ++ BitVec.ofBool b4
      ++ BitVec.ofBool b3 ++ BitVec.ofBool b2 ++ BitVec.ofBool b1 ++ BitVec.ofBool b0) :: groupBytes rest
  | _ => []

end Sys2Proof.Machine
end

