-- ==== Sys2Proof/Machine/Dispatch.lean ====
section
/-! DEFINITION. One arm per command: the meaning of a command presented to the command unit in one tick. -/

namespace Sys2Proof.Machine

def exec (i : Instr) (s : State) : Host.Outcome State Fault Refusal :=
  match i with
  | .init pin ledCount => Sys2Proof.Machine.execInit pin ledCount s
  | .clear => Sys2Proof.Machine.execClear s
  | .setpix index r g b => Sys2Proof.Machine.execSetpix index r g b s
  | .write => Sys2Proof.Machine.execWrite s
  | .map x y => Sys2Proof.Machine.execMap x y s
  | .rdpix index => Sys2Proof.Machine.execRdpix index s
  | .rdstat => Sys2Proof.Machine.execRdstat s

end Sys2Proof.Machine
end

