-- ==== Sys2Proof/Machine/Tick.lean ====
section
/-! DEFINITION. One tick of `CLK`: who acts in it and what is put on the record (10_state.md R28, 42_write_serializer.md
R79, 70_reset_and_hazards.md R116). -/

namespace Sys2Proof.Machine

/-- The command unit on an accepted word: decode, then the command's meaning; a word no row matches raises
`IllegalCommand(word)` whatever the mode (30_encoding.md R60, 60_exceptions.md R106). -/
def command (w : Word) (s : State) : Out :=
  match decode w with
  | .ok i => exec i s
  | .error _ => ifReady s (raise (.illegalCommand w) s)

/-- What every tick adds around the update of `s` to `s'`: the level of the START of the tick goes on `WIRE` (R79, R27), a
word accepted in this tick goes on the record of accepted commands (R64, R129), and the host moves on. -/
def endTick (s s' : State) : State :=
  { s' with
    wireRev := s.level :: s'.wireRev
    acceptedRev := if s.accepts then ⟨s.now, s.port.cmdWord⟩ :: s'.acceptedRev else s'.acceptedRev
    host := s.hostNext }

/-- One tick: reset, or an accepted command, or the serializer (R28). -/
def tick (s : State) : Out :=
  if s.port.rst then .next (endTick s (resetBlock s))
  else if s.accepts then onNext (endTick s) (command s.port.cmdWord s)
  else onNext (endTick s) (serialize s)

end Sys2Proof.Machine
end

