-- ==== Sys2Proof/Machine/Step.lean ====
section
/-! DEFINITION. The step is one tick of `CLK` (10_state.md R28), and the placing of a command where the next step takes
it: on the command port. -/

namespace Sys2Proof.Machine

def step (s : State) : Host.Outcome State Fault Refusal := tick s

/-- The command of table word `w` presented on the command port from this tick on, with `TG_AVAIL = 1` (log 3, log 10,
log 11). -/
def State.withFetchWord (s : State) (nbits w : Nat) : State :=
  { s with host := .hold (portWord nbits w) true :: s.host }

end Sys2Proof.Machine
end

