-- ==== Sys2Proof/Machine/Assembler.lean ====
section
/-! DEFINITION. The host's side of a program: the spec's textual form read into lines (30_encoding.md R62), the
pseudo-instruction SETXY (R63), and a program loaded as the host's acts. The block sees none of it but the words. -/

namespace Sys2Proof.Machine

/-- The command a well-formed line stands for; any other line is refused. SETXY is `SETPIX index(x, y), r, g, b`, the
index evaluated here by the host (R63). -/
def assemble (line : AsmLine) : Option Instr :=
  if line.wellFormed then
    match line with
    | .init pin ledCount => some (.init (BitVec.ofNat 8 pin) (BitVec.ofNat 8 ledCount))
    | .clear => some .clear
    | .setpix i r g b => some (.setpix (BitVec.ofNat 5 i) (BitVec.ofNat 8 r) (BitVec.ofNat 8 g) (BitVec.ofNat 8 b))
    | .write => some .write
    | .map x y => some (.map (BitVec.ofNat 3 x) (BitVec.ofNat 3 y))
    | .rdpix i => some (.rdpix (BitVec.ofNat 5 i))
    | .rdstat => some .rdstat
    | .setxy x y r g b =>
      some (.setpix (BitVec.ofNat 5 (mapIndex x y)) (BitVec.ofNat 8 r) (BitVec.ofNat 8 g) (BitVec.ofNat 8 b))
  else none

/-- The lines of a program, all of them or none. -/
def assembleAll : List AsmLine → Option (List Instr)
  | [] => some []
  | line :: rest =>
    match assemble line, assembleAll rest with
    | some i, some is => some (i :: is)
    | _, _ => none

/-- A program issued in order, each word held until it is accepted, with `TG_AVAIL = tg` throughout: R62's "one command
per line, issued in order, each after the response to the one before" (log 10). -/
def State.load (s : State) (tg : Bool) (prog : List Instr) : State :=
  { s with host := prog.map fun i => .hold (encode i) tg }

/-! The textual form (R62). Blanks are space and tab; hexadecimal digits of either case are read. DESIGN CHOICE, log 14. -/

def isBlank (c : Char) : Bool := c == ' ' || c == '\t'

def trimBlanks (cs : List Char) : List Char := ((cs.dropWhile isBlank).reverse.dropWhile isBlank).reverse

/-- The value of a digit in the given base. -/
def digitValue (base : Nat) (c : Char) : Option Nat :=
  let v :=
    if '0' ≤ c ∧ c ≤ '9' then c.toNat - '0'.toNat
    else if 'a' ≤ c ∧ c ≤ 'f' then c.toNat - 'a'.toNat + 10
    else if 'A' ≤ c ∧ c ≤ 'F' then c.toNat - 'A'.toNat + 10
    else base
  if v < base then some v else none

def digitsValue (base : Nat) : Nat → List Char → Option Nat
  | acc, [] => some acc
  | acc, c :: cs =>
    match digitValue base c with
    | some v => digitsValue base (acc * base + v) cs
    | none => none

/-- A number in decimal or `0x` hexadecimal; no digits is no number. -/
def readNumber (cs : List Char) : Option Nat :=
  match cs with
  | '0' :: 'x' :: d :: ds => digitsValue 16 0 (d :: ds)
  | d :: ds => digitsValue 10 0 (d :: ds)
  | [] => none

/-- The pieces between commas. -/
def splitCommas : List Char → List (List Char)
  | [] => [[]]
  | c :: cs =>
    if c == ',' then [] :: splitCommas cs
    else
      match splitCommas cs with
      | [] => [[c]]
      | piece :: pieces => (c :: piece) :: pieces

def readNumbers : List (List Char) → Option (List Nat)
  | [] => some []
  | p :: ps =>
    match readNumber (trimBlanks p), readNumbers ps with
    | some n, some ns => some (n :: ns)
    | _, _ => none

/-- Operands separated by commas; none at all when nothing follows the mnemonic. -/
def readOperands (cs : List Char) : Option (List Nat) :=
  match trimBlanks cs with
  | [] => some []
  | c :: rest => readNumbers (splitCommas (c :: rest))

/-- A mnemonic in capitals followed by its operands in the document's order (R62, R63). -/
def lineOf (mnemonic : String) (ops : List Nat) : Option AsmLine :=
  match ops with
  | [] =>
    if mnemonic = "CLEAR" then some .clear
    else if mnemonic = "WRITE" then some .write
    else if mnemonic = "RDSTAT" then some .rdstat
    else none
  | [a] => if mnemonic = "RDPIX" then some (.rdpix a) else none
  | [a, b] =>
    if mnemonic = "INIT" then some (.init a b)
    else if mnemonic = "MAP" then some (.map a b)
    else none
  | [a, b, c, d] => if mnemonic = "SETPIX" then some (.setpix a b c d) else none
  | [a, b, c, d, e] => if mnemonic = "SETXY" then some (.setxy a b c d e) else none
  | _ => none

/-- One line of text; "a comment runs from `;` to the end of the line" (R62). -/
def readLine (text : String) : Option AsmLine :=
  let body := trimBlanks (text.toList.takeWhile (· != ';'))
  match readOperands (body.dropWhile (! isBlank ·)) with
  | some ops => lineOf (String.ofList (body.takeWhile (! isBlank ·))) ops
  | none => none

/-- The textual form of a command (R62), numbers in decimal. -/
def writeLine : Instr → String
  | .init pin n => "INIT " ++ toString pin.toNat ++ ", " ++ toString n.toNat
  | .clear => "CLEAR"
  | .setpix i r g b =>
    "SETPIX " ++ toString i.toNat ++ ", " ++ toString r.toNat ++ ", " ++ toString g.toNat ++ ", " ++ toString b.toNat
  | .write => "WRITE"
  | .map x y => "MAP " ++ toString x.toNat ++ ", " ++ toString y.toNat
  | .rdpix i => "RDPIX " ++ toString i.toNat
  | .rdstat => "RDSTAT"

end Sys2Proof.Machine
end

