-- ==== Sys2Proof/Machine/Ports.lean ====
section
/-! DEFINITION. The output ports in one tick, functions of the state and the input ports (10_state.md R23, R24,
30_encoding.md R64). -/

namespace Sys2Proof.Machine

/-- The output ports (R24). -/
structure PortOut where
  cmdReady : Bool
  rspValid : Bool
  rspWord  : RspWord
  dout     : Bool
  doutOe   : Bool
  busy     : Bool
  fatalOut : Bool
  deriving DecidableEq, Repr

/-- The answer given in the tick that starts in `s`, if one is: the one the tick puts on the record (R58, R64). -/
def State.answerNow (s : State) : Option Answer :=
  match tick s with
  | .next s' => (s'.rspsRev.take (s'.rspsRev.length - s.rspsRev.length)).head?.map Response.answer
  | _ => none

/-- The output ports in the tick that starts in `s`. `RSP_WORD` is meaningful only while `RSP_VALID = 1` (R24) and is 0
otherwise here (DESIGN CHOICE, log 15). `DOUT_OE` and `DOUT` are withheld while `RST = 1`: the line is then not driven
(70 R116; DEDUCED, log 5). -/
def State.outputs (s : State) : PortOut where
  cmdReady := s.cmdReady
  rspValid := s.answerNow.isSome
  rspWord := (s.answerNow.map Answer.word).getD 0
  dout := s.dout && !s.port.rst
  doutOe := s.doutOe && !s.port.rst
  busy := s.busy
  fatalOut := s.fatalOut

end Sys2Proof.Machine
end

