-- ==== Sys2Proof/Safety.lean ====
section
/-! DEFINITION. What counts as a legal state (the held values of 10_state.md R14 to R23, 42 R91), the reset gap on the
record (42 R87), which command each mode permits (40 R69), and when a run is over (70 R129), in the terms the statements
use. -/

namespace Sys2Proof.Machine

/-- The legal states: the configuration is legal (00_scope.md R9) with the widths of the encoding, the buffer has `N_MAX`
registers (R17), `LEDCNT` is 0 outside READY and `1 .. N_MAX` in it (R15), `PINSEL` is 0 outside READY (R65, R104),
`DOUT_OE` is 1 exactly in READY (R23), a frame is in flight only in READY (R19), the cursor is on a pixel of the frame in
SHIFT and `(0, 0, 7, 0)` at every other time (R21), `GAPCNT` is below `RESET_TICKS` in GAP and 0 at every other time (R22). -/
abbrev State.Inv (s : State) : Prop :=
  s.cfg.legal = true ∧ s.cfg.encodable = true ∧ s.pixels.length = s.cfg.nMax
  ∧ (s.mode = .ready → 1 ≤ s.ledcnt.toNat ∧ s.ledcnt.toNat ≤ s.cfg.nMax)
  ∧ (s.mode ≠ .ready → s.ledcnt = 0 ∧ s.pinsel = 0)
  ∧ (s.doutOe = true ↔ s.mode = .ready)
  ∧ (s.phase ≠ .idle → s.mode = .ready)
  ∧ (s.phase = .shift → s.pc.pix.toNat < s.ledcnt.toNat ∧ s.pc.tick.toNat < s.cfg.cellTicks)
  ∧ (s.phase ≠ .shift → s.pc = Cursor.idle)
  ∧ (s.phase = .gap → s.gapcnt.toNat < s.cfg.resetTicks)
  ∧ (s.phase ≠ .gap → s.gapcnt = 0)

/-- How many ticks the line has been low up to now. -/
def State.lowTail (s : State) : Nat := (s.wireRev.takeWhile (· == .low)).length

/-- The last level before that low run was high: a bit cell came before it, so a frame was sent since the line was last
undriven. -/
def State.cellBefore (s : State) : Bool := (s.wireRev.dropWhile (· == .low)).head? == some .high

/-- Low ticks the shortest low tail of a cell has: `CELL_TICKS - T1H` (R87). -/
abbrev cellLow (p : Params) : Nat := p.cellTicks - p.t1h

/-- The reset gap on the record (42_write_serializer.md R87), a relation between `WIRE` and the serializer: with a frame
behind it, an idle block has been low for the cell's tail and `RESET_TICKS`, and when the first cell of a frame is about to
start it has been low for one tick more; inside a cell the ticks after the high part, and in the gap the ticks counted so
far, are low ticks on the record. -/
abbrev State.GapInv (s : State) : Prop :=
  (s.phase = .idle → s.cellBefore = true → cellLow s.cfg + s.cfg.resetTicks ≤ s.lowTail)
  ∧ (s.phase = .shift → s.pc = Cursor.idle → s.cellBefore = true → cellLow s.cfg + s.cfg.resetTicks + 1 ≤ s.lowTail)
  ∧ (s.phase = .shift → ∀ p, s.pixel? s.pc.pix.toNat = some p →
      s.pc.tick.toNat - highTicks s.cfg (bitAt p s.pc) ≤ s.lowTail)
  ∧ (s.phase = .gap → cellLow s.cfg + s.gapcnt.toNat ≤ s.lowTail)

/-- The commands each mode permits (40_driver_control.md R69, 60_exceptions.md R111). -/
def permitted (i : Instr) (m : Mode) : Bool :=
  match i with
  | .init _ _ => m == .uninit
  | .clear => m == .ready
  | .setpix _ _ _ _ => m == .ready
  | .write => m == .ready
  | .map _ _ => m != .fatal
  | .rdpix _ => m == .ready
  | .rdstat => m != .fatal

/-- The host asserts no reset in any of its acts to come. -/
abbrev State.noReset (s : State) : Prop := ∀ a ∈ s.host, a.port.rst = false

/-- The run has reached FATAL: it is there now, or the one fault that leads there (60_exceptions.md R104) is on the record,
which no later reset takes off. -/
def State.reachedFatal (s : State) : Bool :=
  s.mode == .fatal || s.rspsRev.any (fun r => decide (r.answer = .fault .noTimingResource))

/-- One while an accepted command still waits for its answer (a WRITE whose frame is in flight), else none. -/
def State.inFlight (s : State) : Nat := if s.phase = .idle then 0 else 1

/-- Every command accepted has been answered: each gets one response at most (30_encoding.md R64), and one cut by reset gets
none, ever (70_reset_and_hazards.md R118). -/
def State.allAnswered (s : State) : Bool := s.acceptedRev.length == s.rspsRev.length

/-- A run of the host program `prog`, a finite list of command words, is over when every command has been accepted (the
record of accepted words is the program) and answered and `PHASE = IDLE`; a run that reaches FATAL is never over (R129). The
record is kept over a reset, so a run goes on over one. DESIGN CHOICE, log 4. -/
def State.runOver (prog : List Word) (s : State) : Bool :=
  decide (s.accepted.map Accepted.word = prog) && s.allAnswered && s.phase == .idle && !s.reachedFatal

/-- `k` ticks, stopping at a stop of the model. -/
def ticks : Nat → State → Out
  | 0, s => .next s
  | k + 1, s =>
    match step s with
    | .next s' => ticks k s'
    | .fault r => .fault r
    | .refused r => .refused r

/-- Commands given to the command unit one after another, stopping at a stop of the model. -/
def execAll : List Instr → State → Out
  | [], s => .next s
  | i :: is, s =>
    match exec i s with
    | .next s' => execAll is s'
    | .fault r => .fault r
    | .refused r => .refused r

/-- The place of the cursor in the frame, in ticks from the frame's first: pixel, byte, bit, tick, from the outermost in
(42_write_serializer.md R81). -/
def Cursor.place (p : Params) (c : Cursor) : Nat :=
  ((c.pix.toNat * 3 + c.byte.bits.toNat) * 8 + (7 - c.bit.toNat)) * p.cellTicks + c.tick.toNat

end Sys2Proof.Machine
end

