-- ==== Sys2Proof/Certificates/Slice0/Obligations.lean ====
section
/-! DEFINITION. The statements for the provers. Each docstring names the rule or section it formalises. "cmdReady" stands for
"the block can accept a command in this tick" (R20). Every parameter of R8 is written by its name, the field of `s.cfg`, so a
statement holds for every legal configuration (R9, log 6); `s.ledcnt ≤ s.pixels.length` holds in every legal state
(EveryTickKeepsLegality). -/

open Sys2Proof Sys2Proof.Machine

/-! ## Encoding -/

/-- 30_encoding.md sections 1 and 2: no bit of any encoding is dropped. -/
def Obligations.DecodeEncodeRoundTrip : Prop := ∀ i : Instr, decode (encode i) = .ok i

/-- 30_encoding.md sections 1 and 2: a word that decodes is the word its instruction encodes to. -/
def Obligations.EncodeDecodeRoundTrip : Prop := ∀ (w : Word) (i : Instr), decode w = .ok i → encode i = w

/-- R57: `(w and mask) = match` selects the instruction, row by row, and at most one row matches a word. -/
def Obligations.OpcodeMapSelects : Prop :=
  ∀ w : Word,
    ((∃ pin n, decode w = .ok (.init pin n)) ↔ w &&& 0xFFFF0000#32 = 0x20000000#32)
    ∧ (decode w = .ok .clear ↔ w &&& 0xFFFFFFFF#32 = 0x40000000#32)
    ∧ ((∃ i r g b, decode w = .ok (.setpix i r g b)) ↔ w &&& 0xE0000000#32 = 0x60000000#32)
    ∧ (decode w = .ok .write ↔ w &&& 0xFFFFFFFF#32 = 0x80000000#32)
    ∧ ((∃ x y, decode w = .ok (.map x y)) ↔ w &&& 0xFFFFFFC0#32 = 0xA0000000#32)
    ∧ ((∃ i, decode w = .ok (.rdpix i)) ↔ w &&& 0xE0FFFFFF#32 = 0xC0000000#32)
    ∧ (decode w = .ok .rdstat ↔ w &&& 0xFFFFFFFF#32 = 0xE0000000#32)
    ∧ (∀ r ∈ opcodeMap, ∀ r' ∈ opcodeMap, r.hits w = true → r'.hits w = true → r = r')

/-- R51 to R55: the five formats, field by field. -/
def Obligations.FormatsCutOutTheFields : Prop :=
  ∀ w : Word,
    (w.extractLsb' 29 3 = 0b001#3 → w.extractLsb' 16 13 = 0#13 →
      decode w = .ok (.init (w.extractLsb' 8 8) (w.extractLsb' 0 8)))
    ∧ (w.extractLsb' 29 3 = 0b010#3 → w.extractLsb' 0 29 = 0#29 → decode w = .ok .clear)
    ∧ (w.extractLsb' 29 3 = 0b100#3 → w.extractLsb' 0 29 = 0#29 → decode w = .ok .write)
    ∧ (w.extractLsb' 29 3 = 0b111#3 → w.extractLsb' 0 29 = 0#29 → decode w = .ok .rdstat)
    ∧ (w.extractLsb' 29 3 = 0b011#3 →
      decode w = .ok (.setpix (w.extractLsb' 24 5) (w.extractLsb' 16 8) (w.extractLsb' 8 8) (w.extractLsb' 0 8)))
    ∧ (w.extractLsb' 29 3 = 0b110#3 → w.extractLsb' 0 24 = 0#24 → decode w = .ok (.rdpix (w.extractLsb' 24 5)))
    ∧ (w.extractLsb' 29 3 = 0b101#3 → w.extractLsb' 6 23 = 0#23 →
      decode w = .ok (.map (w.extractLsb' 0 3) (w.extractLsb' 3 3)))

/-- R60: which words are illegal, that every other word matches exactly one row, and that an illegal word, when accepted,
is answered `E_ILLEGAL` with no state written, whatever the mode. -/
def Obligations.IllegalWordsAreAnsweredIllegal : Prop :=
  ∀ w : Word,
    ((∃ e, decode w = .error e) ↔
      w.extractLsb' 29 3 = 0b000#3
      ∨ (w.extractLsb' 29 3 = 0b001#3 ∧ w.extractLsb' 16 13 ≠ 0#13)
      ∨ ((w.extractLsb' 29 3 = 0b010#3 ∨ w.extractLsb' 29 3 = 0b100#3 ∨ w.extractLsb' 29 3 = 0b111#3)
          ∧ w.extractLsb' 0 29 ≠ 0#29)
      ∨ (w.extractLsb' 29 3 = 0b110#3 ∧ w.extractLsb' 0 24 ≠ 0#24)
      ∨ (w.extractLsb' 29 3 = 0b101#3 ∧ w.extractLsb' 6 23 ≠ 0#23))
    ∧ ((¬ ∃ e, decode w = .error e) ↔ ∃ r ∈ opcodeMap, r.hits w = true ∧ ∀ r' ∈ opcodeMap, r'.hits w = true → r' = r)
    ∧ (∀ s : State, s.port.cmdWord = w → s.accepts = true → (∃ e, decode w = .error e) →
        step s = .next (endTick s (respond (.fault (.illegalCommand w)) s)))
    ∧ (Answer.fault (.illegalCommand w)).word = 0x10000000#32

/-- 95_test_vectors.md section 2.5, words written out there from the encoding. -/
def Obligations.SpecWordsDecode : Prop :=
  decode 0x20000719#32 = .ok (.init 7 25)
  ∧ decode 0x40000000#32 = .ok .clear
  ∧ decode 0x78102030#32 = .ok (.setpix 24 0x10 0x20 0x30)
  ∧ decode 0x80000000#32 = .ok .write
  ∧ decode 0xA0000008#32 = .ok (.map 0 1)
  ∧ decode 0xDF000000#32 = .ok (.rdpix 31)
  ∧ decode 0xE0000000#32 = .ok .rdstat
  ∧ decode 0x00000000#32 = .error .opcodeZero
  ∧ decode 0xC0800000#32 = .error (.mustBeZero "RDPIX")

/-- R59: the response codes, complete. -/
def Obligations.ResponseCodes : Prop :=
  (∀ d : BitVec 24, (Answer.ok d).word = 0x00#8 ++ d)
  ∧ (∀ w, (Answer.fault (.illegalCommand w)).word = 0x10000000#32)
  ∧ (∀ m, (Answer.fault (.stateError m)).word = 0x20000000#32)
  ∧ (∀ i, (Answer.fault (.indexRange i)).word = 0x30000000#32)
  ∧ (∀ x y, (Answer.fault (.coordRange x y)).word = 0x40000000#32)
  ∧ (∀ n, (Answer.fault (.configError n)).word = 0x50000000#32)
  ∧ (Answer.fault .noTimingResource).word = 0x60000000#32
  ∧ (∀ a : Answer, (a.word.extractLsb' 28 4).toNat ≤ 6)

/-! ## The step around a command -/

/-- 42_write_serializer.md section 3 and 30_encoding.md section 6: a tick that accepts a word runs the decoded command on
the state at the start of the tick; around it the tick puts the level of its start on `WIRE` and the accepted word on the
record, and moves the host on. -/
def Obligations.StepRunsDecodedCommand : Prop :=
  ∀ (s : State) (i : Instr), s.accepts = true → decode s.port.cmdWord = .ok i →
    step s =
      match exec i s with
      | .next t => .next { t with wireRev := s.level :: t.wireRev, host := s.hostNext,
                                  acceptedRev := ⟨s.now, s.port.cmdWord⟩ :: t.acceptedRev }
      | .fault r => .fault r
      | .refused r => .refused r

/-- The same for a table word placed on the port by `withFetchWord` (the model's loading, log 10 and log 11). -/
def Obligations.PlacedTableWordRuns : Prop :=
  ∀ (s : State) (nbits w : Nat) (i : Instr), s.mode ≠ .fatal → s.phase = .idle → decodeTableWord nbits w = some i →
    step (s.withFetchWord nbits w) =
      match exec i (s.withFetchWord nbits w) with
      | .next t => .next { t with wireRev := (if s.doutOe then .low else .z) :: t.wireRev, host := s.host,
                                  acceptedRev := ⟨s.now, portWord nbits w⟩ :: t.acceptedRev }
      | .fault r => .fault r
      | .refused r => .refused r

/-! ## Driver control -/

/-- 40_driver_control.md section 2 (R69): the commands permitted per mode. An accepted command is answered `StateError` exactly
when its mode does not permit it; an illegal word is `IllegalCommand` in UNINIT and READY. `CMD_READY` is 0 in FATAL and while
`PHASE ≠ IDLE`. That the meaning of a command offered while `CMD_READY = 0` leaves the whole state as it is, is the model's
reading of R64 (30_encoding.md section 6, "has no effect"): DEDUCED, log 9. -/
def Obligations.CommandsPermittedPerMode : Prop :=
  ∀ s : State,
    (s.mode = .fatal ∨ s.phase ≠ .idle → s.cmdReady = false)
    ∧ (s.cmdReady = false → (∀ i, exec i s = .next s) ∧ (∀ w, command w s = .next s))
    ∧ (s.cmdReady = true → ∀ i,
        (permitted i s.mode = false ↔ exec i s = .next (respond (.fault (.stateError s.mode)) s)))
    ∧ (s.cmdReady = true → ∀ w e, decode w = .error e →
        command w s = .next (respond (.fault (.illegalCommand w)) s))
    ∧ (∀ m, (Answer.fault (.stateError m)).word = 0x20000000#32)

/-- INIT completes (40_driver_control.md section 1): the two configuration registers, the output enable and the mode are
written, `OK` is answered, nothing else changes. -/
def Obligations.InitBringsTheBlockUp : Prop :=
  ∀ (s : State) (pin : Pin) (n : BitVec 8), s.cmdReady = true → s.mode = .uninit → 1 ≤ n.toNat → n.toNat ≤ s.cfg.nMax →
    s.port.tgAvail = true →
    exec (.init pin n) s =
      .next { s with mode := .ready, ledcnt := n, pinsel := pin, doutOe := true,
                     rspsRev := ⟨s.now, .ok 0⟩ :: s.rspsRev }

/-- R105: `ConfigError` comes before the timing resource is looked at, the block stays in UNINIT and a later INIT may
succeed. -/
def Obligations.BadCountIsConfigError : Prop :=
  ∀ (s : State) (pin : Pin) (n : BitVec 8), s.cmdReady = true → s.mode = .uninit → (n.toNat = 0 ∨ s.cfg.nMax < n.toNat) →
    exec (.init pin n) s = .next (respond (.fault (.configError n)) s)
    ∧ ∀ (pin' : Pin) (n' : BitVec 8), 1 ≤ n'.toNat → n'.toNat ≤ s.cfg.nMax → s.port.tgAvail = true →
        ∃ t, exec (.init pin' n') (respond (.fault (.configError n)) s) = .next t ∧ t.mode = .ready ∧ t.ledcnt = n'

/-- R104: INIT without a timing resource is fatal: `MODE <- FATAL`, `E_NORES`, nothing else written; from the next tick on,
for ever while no reset comes, nothing is accepted, answered or driven, and only reset leaves FATAL. -/
def Obligations.NoTimingResourceIsFatal : Prop :=
  (∀ (s : State) (pin : Pin) (n : BitVec 8), s.cmdReady = true → s.mode = .uninit → 1 ≤ n.toNat → n.toNat ≤ s.cfg.nMax →
    s.port.tgAvail = false →
    exec (.init pin n) s =
      .next { s with mode := .fatal, rspsRev := ⟨s.now, .fault .noTimingResource⟩ :: s.rspsRev })
  ∧ (Answer.fault .noTimingResource).word = 0x60000000#32
  ∧ (∀ s : State, s.Inv → s.mode = .fatal → s.noReset → ∀ k, ∃ t, ticks k s = .next t
      ∧ t.mode = .fatal ∧ t.cmdReady = false ∧ t.fatalOut = true ∧ t.doutOe = false
      ∧ t.rsps = s.rsps ∧ t.wire = s.wire ++ List.replicate k .z
      ∧ t.ledcnt = s.ledcnt ∧ t.pinsel = s.pinsel ∧ t.pixels = s.pixels ∧ t.phase = .idle)
  ∧ (∀ s t : State, step s = .next t → s.mode = .fatal → t.mode ≠ .fatal → s.port.rst = true)

/-- R68: INIT succeeds at most once between resets, so `LEDCNT` and `PINSEL` cannot change while `MODE = READY`. -/
def Obligations.ConfigurationIsConstantInReady : Prop :=
  (∀ (s : State) (pin : Pin) (n : BitVec 8), s.cmdReady = true → s.mode = .ready →
    exec (.init pin n) s = .next (respond (.fault (.stateError .ready)) s))
  ∧ (∀ s t : State, step s = .next t → s.mode = .ready → s.port.rst = false →
      t.mode = .ready ∧ t.ledcnt = s.ledcnt ∧ t.pinsel = s.pinsel)

/-- R25: RDSTAT returns the status view, changes nothing, and can only be accepted when `BUSY = 0`. -/
def Obligations.RdstatReturnsTheStatusView : Prop :=
  ∀ s : State, s.cmdReady = true →
    s.busy = false
    ∧ ∃ d : BitVec 24, exec .rdstat s = .next (respond (.ok d) s)
      ∧ d.extractLsb' 0 8 = s.ledcnt ∧ d.extractLsb' 8 8 = s.pinsel ∧ d.extractLsb' 18 6 = 0#6
      ∧ d.extractLsb' 16 2 = (match s.mode with | .uninit => 0#2 | .ready => 1#2 | .fatal => 2#2)

/-! ## The pixel buffer -/

/-- CLEAR completes (41_pixel_buffer.md section 1): every visible pixel is zero, every other register and every pixel from
`LEDCNT` up is as before, `OK` is answered. -/
def Obligations.ClearZeroesTheBuffer : Prop :=
  ∀ s : State, s.cmdReady = true → s.mode = .ready → s.ledcnt.toNat ≤ s.pixels.length →
    ∃ t, exec .clear s = .next t
      ∧ t = { s with pixels := t.pixels, rspsRev := ⟨s.now, .ok 0⟩ :: s.rspsRev }
      ∧ ∀ i, t.pixel? i = if i < s.ledcnt.toNat then some 0 else s.pixel? i

/-- SETPIX completes (41_pixel_buffer.md section 2): one pixel takes `{r, g, b}`, every other is as before. -/
def Obligations.SetpixWritesOnePixel : Prop :=
  ∀ (s : State) (index : BitVec 5) (r g b : Byte), s.cmdReady = true → s.mode = .ready → s.ledcnt.toNat ≤ s.pixels.length →
    index.toNat < s.ledcnt.toNat →
    ∃ t, exec (.setpix index r g b) s = .next t
      ∧ t = { s with pixels := t.pixels, rspsRev := ⟨s.now, .ok 0⟩ :: s.rspsRev }
      ∧ t.pixel? index.toNat = some (r ++ g ++ b)
      ∧ ∀ j, j ≠ index.toNat → t.pixel? j = s.pixel? j

/-- RDPIX completes (41_pixel_buffer.md section 3): it answers the pixel and changes nothing. -/
def Obligations.RdpixAnswersThePixel : Prop :=
  ∀ (s : State) (index : BitVec 5), s.cmdReady = true → s.mode = .ready → s.ledcnt.toNat ≤ s.pixels.length →
    index.toNat < s.ledcnt.toNat →
    ∃ p, s.pixel? index.toNat = some p ∧ exec (.rdpix index) s = .next (respond (.ok p) s)

/-- R102: `IndexRange` of SETPIX and RDPIX, with no effect on any state. -/
def Obligations.IndexOutOfRangeFaults : Prop :=
  ∀ (s : State) (index : BitVec 5) (r g b : Byte), s.cmdReady = true → s.mode = .ready →
    s.ledcnt.toNat ≤ index.toNat →
    exec (.setpix index r g b) s = .next (respond (.fault (.indexRange index)) s)
    ∧ exec (.rdpix index) s = .next (respond (.fault (.indexRange index)) s)
    ∧ (Answer.fault (.indexRange index)).word = 0x30000000#32

/-- R73: the store and load laws of the buffer; the first clause is WRITE's frame after its accepting tick. -/
def Obligations.StoreLoadLaws : Prop :=
  (∀ s t : State, s.phase ≠ .idle → s.port.rst = false → step s = .next t → ∀ j, t.pixel? j = s.pixel? j)
  ∧ ∀ s : State, s.cmdReady = true → s.mode = .ready → s.ledcnt.toNat ≤ s.pixels.length →
    (∀ (i : BitVec 5) (r g b : Byte), i.toNat < s.ledcnt.toNat →
      ∃ t, exec (.setpix i r g b) s = .next t
        ∧ exec (.rdpix i) t = .next (respond (.ok (r ++ g ++ b)) t)
        ∧ (∀ (j : BitVec 5) (p : Pixel), j ≠ i → exec (.rdpix j) s = .next (respond (.ok p) s) →
            exec (.rdpix j) t = .next (respond (.ok p) t))
        ∧ ∀ (r' g' b' : Byte), ∃ u, exec (.setpix i r' g' b') t = .next u
            ∧ exec (.rdpix i) u = .next (respond (.ok (r' ++ g' ++ b')) u))
    ∧ (∀ sets : List Instr, (∀ c ∈ sets, ∃ i r g b, c = .setpix i r g b) →
        ∃ t, execAll (sets ++ [.clear]) s = .next t
          ∧ ∀ j : BitVec 5, j.toNat < s.ledcnt.toNat → exec (.rdpix j) t = .next (respond (.ok 0) t))
    ∧ (∀ (c : Instr) (t : State), exec c s = .next t →
        (c = .write ∨ (∃ x y, c = .map x y) ∨ (∃ i, c = .rdpix i) ∨ c = .rdstat
          ∨ (∃ f, t.rspsRev = ⟨s.now, .fault f⟩ :: s.rspsRev)) →
        ∀ j, t.pixel? j = s.pixel? j)

/-- 00_scope.md section 5, the primitives `MemRead` and `MemWrite`: out of range they raise `IndexRange(i)`; in range a read
gives the registers in order, and a write is read back and leaves every other pixel as it was. -/
def Obligations.MemReadWriteLaws : Prop :=
  ∀ (s : State) (i : BitVec 5),
    (∀ n, s.ledcnt.toNat < i.toNat + n → memRead i n s = .error (.indexRange i))
    ∧ (∀ vs : List Pixel, s.ledcnt.toNat < i.toNat + vs.length → memWrite i vs s = .error (.indexRange i))
    ∧ (s.ledcnt.toNat ≤ s.pixels.length → ∀ n, i.toNat + n ≤ s.ledcnt.toNat →
        ∃ vs, memRead i n s = .ok vs ∧ vs.length = n ∧ ∀ k, k < n → vs[k]? = s.pixel? (i.toNat + k))
    ∧ (s.ledcnt.toNat ≤ s.pixels.length → ∀ vs : List Pixel, i.toNat + vs.length ≤ s.ledcnt.toNat →
        ∃ t, memWrite i vs s = .ok t ∧ t = { s with pixels := t.pixels }
          ∧ memRead i vs.length t = .ok vs
          ∧ ∀ j, j < i.toNat ∨ i.toNat + vs.length ≤ j → t.pixel? j = s.pixel? j)

/-! ## The mapper -/

/-- MAP completes (43_coordinate_mapper.md section 1): on the grid it answers the index the formula gives and changes
nothing. -/
def Obligations.MapAnswersTheFormula : Prop :=
  ∀ (s : State) (x y : BitVec 3), s.cmdReady = true → x.toNat ≤ 4 → y.toNat ≤ 4 →
    ∃ d : BitVec 24, exec (.map x y) s = .next (respond (.ok d) s)
      ∧ d.toNat + (5 * y.toNat + if y.getLsbD 0 = false then x.toNat else 4 - x.toNat) = 24

/-- R96: the complete table, rows `y`, columns `x`, and the four entries the document states. -/
def Obligations.MapTable : Prop :=
  (∀ (s : State) (x y : BitVec 3), s.cmdReady = true → x.toNat ≤ 4 → y.toNat ≤ 4 →
    ∃ d : BitVec 24, exec (.map x y) s = .next (respond (.ok d) s)
      ∧ ([[24, 23, 22, 21, 20], [15, 16, 17, 18, 19], [14, 13, 12, 11, 10], [5, 6, 7, 8, 9], [4, 3, 2, 1, 0]][y.toNat]?.bind
          (·[x.toNat]?)) = some d.toNat)
  ∧ mapIndex 0 0 = 24 ∧ mapIndex 4 0 = 20 ∧ mapIndex 0 1 = 15 ∧ mapIndex 4 1 = 19

/-- R94 and R103: off the grid MAP raises `CoordRange(x, y)` and returns no index. -/
def Obligations.MapOffTheGridFaults : Prop :=
  ∀ (s : State) (x y : BitVec 3), s.cmdReady = true → (4 < x.toNat ∨ 4 < y.toNat) →
    exec (.map x y) s = .next (respond (.fault (.coordRange x y)) s)
    ∧ (Answer.fault (.coordRange x y)).word = 0x40000000#32

/-- R97: range, bijection, rows, the serpentine, the inverse, and the two ends of the wire. -/
def Obligations.MapperLaws : Prop :=
  (∀ x y, x ≤ 4 → y ≤ 4 → mapIndex x y ≤ 24)
  ∧ (∀ x y x' y', x ≤ 4 → y ≤ 4 → x' ≤ 4 → y' ≤ 4 → mapIndex x y = mapIndex x' y' → x = x' ∧ y = y')
  ∧ (∀ idx, idx ≤ 24 → ∃ x y, x ≤ 4 ∧ y ≤ 4 ∧ mapIndex x y = idx)
  ∧ (∀ x y, x ≤ 4 → y ≤ 4 → 20 - 5 * y ≤ mapIndex x y ∧ mapIndex x y ≤ 24 - 5 * y)
  ∧ (∀ x y, x < 4 → y ≤ 4 → y % 2 = 0 → mapIndex x y = mapIndex (x + 1) y + 1)
  ∧ (∀ x y, x < 4 → y ≤ 4 → y % 2 = 1 → mapIndex (x + 1) y = mapIndex x y + 1)
  ∧ (∀ y, y < 4 → y % 2 = 0 → mapIndex 4 y = mapIndex 4 (y + 1) + 1)
  ∧ (∀ y, y < 4 → y % 2 = 1 → mapIndex 0 y = mapIndex 0 (y + 1) + 1)
  ∧ (∀ x y, x ≤ 4 → y ≤ 4 → mapPosition (mapIndex x y) = (x, y))
  ∧ (∀ idx, idx ≤ 24 → mapIndex (mapPosition idx).1 (mapPosition idx).2 = idx)
  ∧ (∀ idx, idx < 24 →
      ((mapPosition idx).2 = (mapPosition (idx + 1)).2
        ∧ ((mapPosition idx).1 = (mapPosition (idx + 1)).1 + 1 ∨ (mapPosition (idx + 1)).1 = (mapPosition idx).1 + 1))
      ∨ ((mapPosition idx).1 = (mapPosition (idx + 1)).1 ∧ (mapPosition idx).2 = (mapPosition (idx + 1)).2 + 1))
  ∧ mapPosition 0 = (4, 4) ∧ mapPosition 24 = (0, 0)

/-- 30_encoding.md section 5: SETXY is the SETPIX whose index MAP answers for the same coordinates; off the grid the
assembler refuses the line. -/
def Obligations.SetxyUsesTheMappersIndex : Prop :=
  (∀ (s : State) (x y : BitVec 3) (r g b : Byte), s.cmdReady = true → x.toNat ≤ 4 → y.toNat ≤ 4 →
    ∃ index : BitVec 5,
      assemble (.setxy x.toNat y.toNat r.toNat g.toNat b.toNat) = some (.setpix index r g b)
      ∧ exec (.map x y) s = .next (respond (.ok (index.setWidth 24)) s))
  ∧ ∀ x y r g b : Nat, (4 < x ∨ 4 < y) → assemble (.setxy x y r g b) = none

/-! ## WRITE and the serializer -/

/-- WRITE completes (42_write_serializer.md section 1): the frame is started, nothing else changes and no response is given
yet. -/
def Obligations.WriteStartsTheFrame : Prop :=
  ∀ s : State, s.cmdReady = true → s.mode = .ready →
    exec .write s = .next { s with phase := .shift, pc := ⟨0, .green, 7, 0⟩ }

/-- R80: the level of a SHIFT tick from the pixel, byte, bit and tick under the cursor; 0 in every other driven tick; the
buffer does not change while `PHASE ≠ IDLE`. -/
def Obligations.ShiftTickLevel : Prop :=
  ∀ s : State, s.Inv → s.port.rst = false →
    (s.phase = .shift → ∃ p t, s.pixel? s.pc.pix.toNat = some p ∧ step s = .next t
      ∧ t.wire = s.wire ++ [
          let byte := match s.pc.byte with
            | .green => p.extractLsb' 8 8
            | .red => p.extractLsb' 16 8
            | .blue => p.extractLsb' 0 8
          if s.pc.tick.toNat < (if byte.getLsbD s.pc.bit.toNat then s.cfg.t1h else s.cfg.t0h) then .high else .low])
    ∧ (s.phase ≠ .shift → s.doutOe = true → ∃ t, step s = .next t ∧ t.wire = s.wire ++ [.low])
    ∧ (s.phase ≠ .idle → ∃ t, step s = .next t ∧ t.pixels = s.pixels)

/-- R81: the cursor advance, case by case, after the level is on the record. -/
def Obligations.ShiftTickAdvancesTheCursor : Prop :=
  ∀ s : State, s.Inv → s.port.rst = false → s.phase = .shift →
    step s = .next
      { s with
        wireRev := s.level :: s.wireRev
        host := s.hostNext
        phase := if s.pc.tick.toNat < s.cfg.cellTicks - 1 ∨ 0 < s.pc.bit.toNat ∨ s.pc.byte ≠ .blue ∨ s.pc.pix.toNat < s.ledcnt.toNat - 1
          then .shift else .gap
        gapcnt := 0
        pc :=
          if s.pc.tick.toNat < s.cfg.cellTicks - 1 then { s.pc with tick := s.pc.tick + 1 }
          else if 0 < s.pc.bit.toNat then { s.pc with tick := 0, bit := s.pc.bit - 1 }
          else match s.pc.byte with
            | .green => ⟨s.pc.pix, .red, 7, 0⟩
            | .red => ⟨s.pc.pix, .blue, 7, 0⟩
            | .blue => if s.pc.pix.toNat < s.ledcnt.toNat - 1 then ⟨s.pc.pix + 1, .green, 7, 0⟩ else ⟨0, .green, 7, 0⟩ }

/-- 42_write_serializer.md section 3: the cursor's nesting counts the ticks of the frame one by one, and the frame ends
after `24 × LEDCNT × CELL_TICKS` of them. -/
def Obligations.CursorCountsTheFramesTicks : Prop :=
  ∀ s : State, s.Inv → s.port.rst = false → s.phase = .shift →
    s.pc.place s.cfg < 24 * s.ledcnt.toNat * s.cfg.cellTicks
    ∧ ∃ t, step s = .next t
      ∧ (s.pc.place s.cfg + 1 < 24 * s.ledcnt.toNat * s.cfg.cellTicks →
          t.phase = .shift ∧ t.pc.place s.cfg = s.pc.place s.cfg + 1)
      ∧ (s.pc.place s.cfg + 1 = 24 * s.ledcnt.toNat * s.cfg.cellTicks → t.phase = .gap ∧ t.pc = ⟨0, .green, 7, 0⟩ ∧ t.gapcnt = 0)

/-- R82: from the first SHIFT tick, `24 × LEDCNT × CELL_TICKS` SHIFT ticks put the cells of the frame on the wire, which are
`3 × LEDCNT` bytes; then `PHASE` is GAP with the cursor back at its idle value and `GAPCNT = 0`. -/
def Obligations.ShiftPutsTheFrameOnTheWire : Prop :=
  ∀ s : State, s.Inv → s.noReset → s.phase = .shift → s.pc = ⟨0, .green, 7, 0⟩ →
    (∀ k, k < 24 * s.ledcnt.toNat * s.cfg.cellTicks → ∃ u, ticks k s = .next u ∧ u.phase = .shift)
    ∧ (∃ t, ticks (24 * s.ledcnt.toNat * s.cfg.cellTicks) s = .next t
        ∧ t.phase = .gap ∧ t.pc = ⟨0, .green, 7, 0⟩ ∧ t.gapcnt = 0
        ∧ t.wire = s.wire ++ cells s.cfg s.frameBits)
    ∧ s.frameBytes.length = 3 * s.ledcnt.toNat
    ∧ groupBytes s.frameBits = s.frameBytes

/-- R83: the reset gap, tick by tick, from its first tick to WRITE's response in its last; the parameters keep the
document's bound. -/
def Obligations.GapLastsResetTicks : Prop :=
  ∀ s : State, s.Inv → s.noReset → s.phase = .gap → s.gapcnt = 0 →
    s.cfg.tickHz ≤ s.cfg.resetTicks * 10000
    ∧ (∀ k, k < s.cfg.resetTicks → ∃ u, ticks k s = .next u ∧ u.phase = .gap ∧ u.gapcnt.toNat = k
        ∧ u.wire = s.wire ++ List.replicate k .low ∧ u.rsps = s.rsps)
    ∧ ∃ t, ticks s.cfg.resetTicks s = .next t ∧ t.phase = .idle ∧ t.gapcnt = 0
        ∧ t.wire = s.wire ++ List.replicate s.cfg.resetTicks .low
        ∧ t.rsps = s.rsps ++ [⟨s.now + (s.cfg.resetTicks - 1), .ok 0⟩]

/-- R84 and R86, the frame law: a WRITE accepted in tick `a` puts the idle level, the cells of the whole buffer and the
reset gap on the wire, answers `OK` in tick `a + 24 × n × CELL_TICKS + RESET_TICKS`, and leaves the state as it was before tick `a`; until then
`CMD_READY = 0` and no response is given. -/
def Obligations.FrameLaw : Prop :=
  ∀ s : State, s.Inv → s.noReset → s.mode = .ready → s.phase = .idle →
    s.port.cmdValid = true → s.port.cmdWord = 0x80000000#32 →
    (∀ k, 1 ≤ k → k ≤ 24 * s.ledcnt.toNat * s.cfg.cellTicks + s.cfg.resetTicks → ∃ u, ticks k s = .next u
        ∧ u.cmdReady = false ∧ u.rsps = s.rsps
        ∧ u.phase = (if k ≤ 24 * s.ledcnt.toNat * s.cfg.cellTicks then .shift else .gap))
    ∧ ∃ t, ticks (1 + 24 * s.ledcnt.toNat * s.cfg.cellTicks + s.cfg.resetTicks) s = .next t
        ∧ t.wire = s.wire ++ [.low] ++ cells s.cfg s.frameBits ++ List.replicate s.cfg.resetTicks .low
        ∧ t.rsps = s.rsps ++ [⟨s.now + 24 * s.ledcnt.toNat * s.cfg.cellTicks + s.cfg.resetTicks, .ok 0⟩]
        ∧ t = { s with wireRev := t.wireRev, rspsRev := t.rspsRev, host := t.host,
                       acceptedRev := ⟨s.now, 0x80000000#32⟩ :: s.acceptedRev }
        ∧ t.cmdReady = true

/-- 20_memory.md section 2: what the frame holds: three bytes per pixel, green, red, blue, ascending index, and each byte
most significant bit first. -/
def Obligations.FrameContent : Prop :=
  ∀ s : State, s.ledcnt.toNat ≤ s.pixels.length →
    s.frameBytes.length = 3 * s.ledcnt.toNat ∧ s.frameBits.length = 24 * s.ledcnt.toNat
    ∧ (∀ i, i < s.ledcnt.toNat → ∃ p, s.pixel? i = some p
        ∧ s.frameBytes[3 * i]? = some (p.extractLsb' 8 8)
        ∧ s.frameBytes[3 * i + 1]? = some (p.extractLsb' 16 8)
        ∧ s.frameBytes[3 * i + 2]? = some (p.extractLsb' 0 8))
    ∧ (∀ j b, j < 3 * s.ledcnt.toNat → b < 8 →
        s.frameBits[8 * j + (7 - b)]? = (s.frameBytes[j]?).map (·.getLsbD b))

/-- 42_write_serializer.md section 4, the symbol view: after any history that ends low, the cells of some bits and a reset
gap add exactly those bits and one `Reset` to the symbols, in every legal configuration that keeps the bit rate of the
document (R8's constraint on `TICK_HZ`; without it the gap could be no longer than a cell's low part). -/
def Obligations.FrameSymbols : Prop :=
  ∀ (p : Params) (pre : List Level) (bits : List Bool), p.legal = true → p.bitRateKept = true → bits ≠ [] →
    symbols p (pre ++ [.low] ++ cells p bits ++ List.replicate p.resetTicks .low)
      = symbols p (pre ++ [.low]) ++ bits.map .bit ++ [.reset]

/-- 42_write_serializer.md section 4, the level laws inside a frame: every high run is `T0H` or `T1H` ticks, every low run
between two bits is `CELL_TICKS - T1H` or `CELL_TICKS - T0H` ticks, shorter than a reset gap. -/
def Obligations.FrameRunLengths : Prop :=
  ∀ (p : Params) (bits : List Bool), p.legal = true → p.bitRateKept = true → ∀ r ∈ levelRuns (cells p bits),
    (r.1 = .high ∧ (r.2 = p.t0h ∨ r.2 = p.t1h))
    ∨ (r.1 = .low ∧ (r.2 = p.cellTicks - p.t1h ∨ r.2 = p.cellTicks - p.t0h) ∧ r.2 < p.resetTicks)

/-- R91: the whole sequencer as one transition table; the combinations it calls unreachable are in no legal state. -/
def Obligations.TransitionTable : Prop :=
  ∀ s : State, s.Inv →
    (s.phase = .idle ∨ s.mode = .ready)
    ∧ ∃ t, step s = .next t
      ∧ (s.port.rst = true → t.mode = .uninit ∧ t.phase = .idle ∧ t.wire = s.wire ++ [.z])
      ∧ (s.port.rst = false →
          (s.mode = .uninit →
            t.phase = .idle ∧ t.wire = s.wire ++ [.z]
            ∧ t.mode =
                if s.accepts then
                  match decode s.port.cmdWord with
                  | .ok (.init _ n) =>
                    if 1 ≤ n.toNat ∧ n.toNat ≤ s.cfg.nMax then (if s.port.tgAvail then .ready else .fatal) else .uninit
                  | _ => .uninit
                else .uninit)
          ∧ (s.mode = .ready → s.phase = .idle →
            t.mode = .ready ∧ t.wire = s.wire ++ [.low]
            ∧ t.phase = if s.accepts ∧ s.port.cmdWord = 0x80000000#32 then .shift else .idle)
          ∧ (s.mode = .ready → s.phase = .shift →
            t.mode = .ready
            ∧ (if s.pc.pix.toNat + 1 = s.ledcnt.toNat ∧ s.pc.byte = .blue ∧ s.pc.bit = 0 ∧ s.pc.tick.toNat + 1 = s.cfg.cellTicks
               then t.phase = .gap ∧ t.wire = s.wire ++ [.low]
               else t.phase = .shift ∧ t.wire = s.wire ++ [if s.dout then .high else .low]))
          ∧ (s.mode = .ready → s.phase = .gap →
            t.mode = .ready ∧ t.wire = s.wire ++ [.low]
            ∧ (if s.gapcnt.toNat + 1 < s.cfg.resetTicks then t.phase = .gap else t.phase = .idle ∧ t.rsps = s.rsps ++ [⟨s.now, .ok 0⟩]))
          ∧ (s.mode = .fatal → t.mode = .fatal ∧ t.phase = .idle ∧ t.wire = s.wire ++ [.z]))

/-- 42_write_serializer.md section 3: an idle tick in which nothing is accepted only records the idle level. -/
def Obligations.IdleTickRecordsTheIdleLevel : Prop :=
  ∀ s : State, s.phase = .idle → s.port.rst = false → s.accepts = false →
    step s = .next { s with wireRev := (if s.doutOe then .low else .z) :: s.wireRev, host := s.hostNext }

/-! ## Ports and the record -/

/-- 10_state.md section 6: every tick that completes appends exactly one element to `WIRE`: `Z` when the line is not driven,
else the line's level at the start of the tick. -/
def Obligations.EveryTickAppendsOneLevel : Prop :=
  ∀ s t : State, step s = .next t →
    t.wire = s.wire ++ [if s.port.rst = true ∨ s.doutOe = false then .z else if s.dout then .high else .low]

/-- 30_encoding.md section 6: when the response port is valid: in the accepting tick of every command but a WRITE that
starts a frame, and in the last GAP tick with the word 0; never under reset. That `RSP_WORD` shows 0 in the GAP ticks before
the last, in which it is not valid, is THE MODEL'S CHOICE (log 15). -/
def Obligations.ResponsePortTiming : Prop :=
  ∀ s : State, s.Inv →
    (s.port.rst = true → s.outputs.rspValid = false)
    ∧ (s.port.rst = false → s.phase = .idle →
        (s.outputs.rspValid = true ↔ s.accepts = true ∧ ¬ (s.mode = .ready ∧ s.port.cmdWord = 0x80000000#32)))
    ∧ (s.port.rst = false → s.phase = .shift → s.outputs.rspValid = false)
    ∧ (s.port.rst = false → s.phase = .gap →
        (s.outputs.rspValid = true ↔ s.gapcnt.toNat + 1 = s.cfg.resetTicks) ∧ s.outputs.rspWord = 0)

/-- 42_write_serializer.md section 4 and 70 section 3: while a frame is in flight the host's ports, reset apart, change
nothing in the block or on the record. -/
def Obligations.BusyBlockIgnoresTheHost : Prop :=
  ∀ (s : State) (h : List HostAct), s.phase ≠ .idle → s.port.rst = false → ({ s with host := h } : State).port.rst = false →
    (∀ t, step s = .next t → ∃ h', step { s with host := h } = .next { t with host := h' })
    ∧ (∀ r, step s = .fault r → step { s with host := h } = .fault r)

/-! ## Reset -/

/-- R30: every reset value (a pixel register holds some value, the rule gives none) and the derived outputs. -/
def Obligations.ResetValues : Prop :=
  State.reset.mode = .uninit ∧ State.reset.ledcnt = 0 ∧ State.reset.pinsel = 0
  ∧ State.reset.phase = .idle ∧ State.reset.pc = ⟨0, .green, 7, 0⟩ ∧ State.reset.gapcnt = 0
  ∧ State.reset.doutOe = false ∧ State.reset.wire = []
  ∧ (∀ i, i < 25 → (State.reset.pixel? i).isSome = true)
  ∧ State.reset.outputs.dout = false ∧ State.reset.outputs.busy = false ∧ State.reset.outputs.cmdReady = true
  ∧ State.reset.outputs.fatalOut = false ∧ State.reset.outputs.rspValid = false

/-- R116: in a tick with `RST = 1` every piece of state takes its reset value (a pixel register some value), no command is
accepted, no response is given, `Z` is appended; nothing else leaves FATAL or returns to UNINIT. -/
def Obligations.ResetTick : Prop :=
  (∀ s : State, s.port.rst = true →
    s.cmdReady = false ∧ s.accepts = false
    ∧ ∃ t, step s = .next t
      ∧ t.mode = .uninit ∧ t.ledcnt = 0 ∧ t.pinsel = 0 ∧ t.phase = .idle ∧ t.pc = ⟨0, .green, 7, 0⟩ ∧ t.gapcnt = 0
      ∧ t.doutOe = false ∧ (∀ i, i < s.cfg.nMax → (t.pixel? i).isSome = true)
      ∧ t.rsps = s.rsps ∧ t.wire = s.wire ++ [.z])
  ∧ ∀ s t : State, step s = .next t → s.port.rst = false →
      (s.mode = .fatal → t.mode = .fatal) ∧ (s.mode ≠ .uninit → t.mode ≠ .uninit)

/-- THE MODEL'S CHOICE (log 2): after a reset every pixel register holds the free value of that reset and index, a constant
with no body, so this holds for every content. -/
def Obligations.ResetPixelsAreTheFreeValues : Prop :=
  (∀ i, i < 25 → State.reset.pixel? i = some (Config.resetPixel 0 i))
  ∧ ∀ s t : State, s.port.rst = true → step s = .next t →
      ∀ i, i < s.cfg.nMax → t.pixel? i = some (Config.resetPixel (s.resets + 1) i)

/-! ## Frames: what a command leaves unchanged -/

/-- 20_memory.md section 3: MAP, RDPIX and RDSTAT change no register and no pixel, whatever they answer. -/
def Obligations.ReadOnlyCommandsFrame : Prop :=
  ∀ (s t : State) (c : Instr), ((∃ x y, c = .map x y) ∨ (∃ i, c = .rdpix i) ∨ c = .rdstat) → exec c s = .next t →
    t.mode = s.mode ∧ t.ledcnt = s.ledcnt ∧ t.pinsel = s.pinsel ∧ t.phase = s.phase ∧ t.pc = s.pc
    ∧ t.gapcnt = s.gapcnt ∧ t.doutOe = s.doutOe ∧ (∀ j, t.pixel? j = s.pixel? j)
    ∧ t.wire = s.wire ∧ t.host = s.host ∧ t.resets = s.resets
    ∧ t.cfg = s.cfg ∧ t.accepted = s.accepted

/-- 41_pixel_buffer.md sections 1 and 2: SETPIX and CLEAR change no register but the pixels they write: SETPIX `x[index]`,
CLEAR those below `LEDCNT`. -/
def Obligations.BufferCommandsFrame : Prop :=
  ∀ (s t : State) (c : Instr), ((∃ i r g b, c = .setpix i r g b) ∨ c = .clear) → exec c s = .next t →
    t.mode = s.mode ∧ t.ledcnt = s.ledcnt ∧ t.pinsel = s.pinsel ∧ t.phase = s.phase ∧ t.pc = s.pc
    ∧ t.gapcnt = s.gapcnt ∧ t.doutOe = s.doutOe
    ∧ (∀ i r g b, c = .setpix i r g b → ∀ j, j ≠ i.toNat → t.pixel? j = s.pixel? j)
    ∧ (c = .clear → ∀ j, s.ledcnt.toNat ≤ j → t.pixel? j = s.pixel? j)
    ∧ t.wire = s.wire ∧ t.host = s.host ∧ t.resets = s.resets
    ∧ t.cfg = s.cfg ∧ t.accepted = s.accepted

/-- 40_driver_control.md section 1: INIT leaves the pixel registers and the serializer's state alone. -/
def Obligations.InitFrame : Prop :=
  ∀ (s t : State) (pin : Pin) (n : BitVec 8), exec (.init pin n) s = .next t →
    (∀ j, t.pixel? j = s.pixel? j) ∧ t.phase = s.phase ∧ t.pc = s.pc ∧ t.gapcnt = s.gapcnt
    ∧ t.wire = s.wire ∧ t.host = s.host ∧ t.resets = s.resets
    ∧ t.cfg = s.cfg ∧ t.accepted = s.accepted

/-- 42_write_serializer.md section 1: WRITE leaves everything but `PHASE` and the cursor alone. -/
def Obligations.WriteFrame : Prop :=
  ∀ s t : State, exec .write s = .next t →
    t.mode = s.mode ∧ t.ledcnt = s.ledcnt ∧ t.pinsel = s.pinsel ∧ t.gapcnt = s.gapcnt ∧ t.doutOe = s.doutOe
    ∧ (∀ j, t.pixel? j = s.pixel? j) ∧ t.wire = s.wire ∧ t.host = s.host ∧ t.resets = s.resets
    ∧ t.cfg = s.cfg ∧ t.accepted = s.accepted

/-- 60_exceptions.md section 2: a command that faults writes no state, but for `MODE <- FATAL` of `NoTimingResource`. -/
def Obligations.FaultsWriteNoState : Prop :=
  ∀ (s t : State) (c : Instr) (f : CmdFault), exec c s = .next t → t.rspsRev = ⟨s.now, .fault f⟩ :: s.rspsRev →
    t = { s with mode := if f = .noTimingResource then .fatal else s.mode,
                 rspsRev := ⟨s.now, .fault f⟩ :: s.rspsRev }

/-- 20_memory.md section 5: a pixel changes only by reset, by an accepted SETPIX to it, or by an accepted CLEAR that covers
it. -/
def Obligations.OnlySetpixClearAndResetChangePixels : Prop :=
  ∀ (s t : State) (j : Nat), step s = .next t → t.pixel? j ≠ s.pixel? j →
    s.port.rst = true
    ∨ (s.accepts = true ∧ s.mode = .ready ∧ j < s.ledcnt.toNat
        ∧ (decode s.port.cmdWord = .ok .clear
            ∨ ∃ i r g b, decode s.port.cmdWord = .ok (.setpix i r g b) ∧ i.toNat = j ∧ t.pixel? j = some (r ++ g ++ b)))

/-! ## Invariants -/

/-- 10_state.md sections 2 to 5: the reset state is legal, and so is a reset state of every other legal configuration
(00_scope.md section 4). -/
def Obligations.ResetIsLegal : Prop :=
  State.reset.Inv ∧ ∀ (p : Params) (k : Nat), p.legal = true → p.encodable = true → (State.resetAt p k).Inv

/-- 10_state.md sections 2 to 5 and 42_write_serializer.md section 5: from a legal state every tick completes and leads to a
legal state. -/
def Obligations.EveryTickKeepsLegality : Prop := ∀ s : State, s.Inv → ∃ t, step s = .next t ∧ t.Inv

/-- 42_write_serializer.md section 4: a reset state satisfies the gap relation, whatever the configuration. -/
def Obligations.ResetHasGap : Prop := ∀ (p : Params) (k : Nat), (State.resetAt p k).GapInv

/-- 42_write_serializer.md section 4, the inter-frame law as an invariant: whatever the host does, every tick keeps the reset
gap on the record, so that when the first cell of a frame starts after an earlier frame, the line has been low for at least
`RESET_TICKS + 1 + (CELL_TICKS - T1H)` ticks. -/
def Obligations.EveryTickKeepsTheResetGap : Prop :=
  (∀ s t : State, s.Inv → s.GapInv → step s = .next t → t.GapInv)
  ∧ ∀ s : State, s.GapInv → s.phase = .shift → s.pc = ⟨0, .green, 7, 0⟩ → s.cellBefore = true →
      s.cfg.resetTicks + 1 + (s.cfg.cellTicks - s.cfg.t1h) ≤ s.lowTail

/-- 60_exceptions.md section 3: the only mode changes are UNINIT to READY and UNINIT to FATAL, by an accepted INIT, and to
UNINIT by reset. -/
def Obligations.ModeChangesOnlyByInitAndReset : Prop :=
  ∀ s t : State, step s = .next t → t.mode ≠ s.mode →
    (s.port.rst = true ∧ t.mode = .uninit)
    ∨ (s.mode = .uninit ∧ s.accepts = true ∧ (∃ pin n, decode s.port.cmdWord = .ok (.init pin n))
        ∧ (t.mode = .ready ∨ t.mode = .fatal))

/-! ## The configuration -/

/-- 00_scope.md section 4: the configuration fields with their defaults, which are legal and keep the bit rate; reset starts in
them, and no tick changes them, nor the number of pixel registers of a buffer of `N_MAX`. -/
def Obligations.ConfigurationIsFixed : Prop :=
  State.reset.cfg = { nMax := 25, tickHz := 8000000, cellTicks := 10, t0h := 2, t1h := 7, resetTicks := 800,
                      pinBits := 8, cmdBits := 32, rspBits := 32 }
  ∧ State.reset.cfg.legal = true ∧ State.reset.cfg.bitRateKept = true ∧ State.reset.cfg.encodable = true
  ∧ ∀ s t : State, step s = .next t →
      t.cfg = s.cfg ∧ (s.pixels.length = s.cfg.nMax → t.pixels.length = t.cfg.nMax)

/-! ## Acceptance, answers, and the end of a run -/

/-- 30_encoding.md section 6: commands accepted and responses given keep pace. Whatever is on the ports, a tick keeps the number
of accepted commands that will never be answered, but for a reset in mid-frame, which adds the WRITE it cuts
(70_reset_and_hazards.md section 1); and the record of accepted words grows exactly by the word accepted in the tick. That the
record is kept, over a reset too, is THE MODEL'S CHOICE (log 4, with log 5, DEDUCED). -/
def Obligations.EveryCommandIsAnsweredOnce : Prop :=
  ∀ (s t : State) (n : Nat), step s = .next t → s.accepted.length = s.rsps.length + s.inFlight + n →
    t.accepted.length = t.rsps.length + t.inFlight + (if s.port.rst = true ∧ s.phase ≠ .idle then n + 1 else n)
    ∧ t.accepted = s.accepted ++ (if s.accepts then [⟨s.now, s.port.cmdWord⟩] else [])

/-- 70_reset_and_hazards.md section 4 (R129): the end of a run of the host program `prog`, on the record of accepted commands,
answers and `PHASE`. It is over when every command has been accepted and answered and `PHASE = IDLE`; a run that reaches FATAL
is never over. FATAL is entered only with `NoTimingResource` (60_exceptions.md section 1), and a WRITE cut by reset is never
answered (70_reset_and_hazards.md section 1). THE MODEL'S CHOICE (log 4, DESIGN CHOICE, with log 5, DEDUCED): the record is kept
over a reset, so the run goes on over it, and is not over after a FATAL that reset left nor after a frame that reset cut. -/
def Obligations.EndOfARun : Prop :=
  (∀ (prog : List Word) (s : State), s.runOver prog = true ↔
      s.accepted.map Accepted.word = prog ∧ s.accepted.length = s.rsps.length ∧ s.phase = .idle
        ∧ s.mode ≠ .fatal ∧ ∀ r ∈ s.rsps, r.answer ≠ .fault .noTimingResource)
  ∧ (∀ (prog : List Word) (s t : State) (k : Nat),
      (∃ r ∈ s.rsps, r.answer = .fault .noTimingResource) → ticks k s = .next t → t.runOver prog = false)
  ∧ (∀ s t : State, step s = .next t → s.mode ≠ .fatal → t.mode = .fatal →
      ∃ r ∈ t.rsps, r.answer = .fault .noTimingResource)
  ∧ (∀ (prog : List Word) (s t u : State) (k : Nat), s.rsps.length + s.inFlight ≤ s.accepted.length → s.phase ≠ .idle →
      s.port.rst = true → step s = .next t → ticks k t = .next u → u.runOver prog = false)

/-- 70_reset_and_hazards.md section 4: a program gets to its end. In a legal state whose program so far is over, a command that
is accepted is over after its one tick, a WRITE in READY after its frame, unless it leads to FATAL. The end of a run is read
from the kept record: THE MODEL'S CHOICE (log 4). -/
def Obligations.RunsGetOver : Prop :=
  ∀ (prog : List Word) (s : State), s.Inv → s.noReset → s.runOver prog = true → s.accepts = true →
    ∃ t, ticks (if s.mode = .ready ∧ s.port.cmdWord = 0x80000000#32
                then 1 + 24 * s.ledcnt.toNat * s.cfg.cellTicks + s.cfg.resetTicks else 1) s = .next t
      ∧ (t.mode = .fatal ∨ t.runOver (prog ++ [s.port.cmdWord]) = true)
end

