-- ==== Sys2Proof/Laws/State.lean ====
section
/-! SUPPORT. Field lemmas: what each named update of a state does to each field, one lemma per field, true by `rfl`. -/

namespace Sys2Proof.Machine

/-! ### `respond` -/

@[simp] theorem respond_cfg (a : Answer) (s : State) : (respond a s).cfg = s.cfg := rfl
@[simp] theorem respond_acceptedRev (a : Answer) (s : State) : (respond a s).acceptedRev = s.acceptedRev := rfl
@[simp] theorem respond_mode (a : Answer) (s : State) : (respond a s).mode = s.mode := rfl
@[simp] theorem respond_ledcnt (a : Answer) (s : State) : (respond a s).ledcnt = s.ledcnt := rfl
@[simp] theorem respond_pinsel (a : Answer) (s : State) : (respond a s).pinsel = s.pinsel := rfl
@[simp] theorem respond_pixels (a : Answer) (s : State) : (respond a s).pixels = s.pixels := rfl
@[simp] theorem respond_phase (a : Answer) (s : State) : (respond a s).phase = s.phase := rfl
@[simp] theorem respond_pc (a : Answer) (s : State) : (respond a s).pc = s.pc := rfl
@[simp] theorem respond_gapcnt (a : Answer) (s : State) : (respond a s).gapcnt = s.gapcnt := rfl
@[simp] theorem respond_doutOe (a : Answer) (s : State) : (respond a s).doutOe = s.doutOe := rfl
@[simp] theorem respond_wireRev (a : Answer) (s : State) : (respond a s).wireRev = s.wireRev := rfl
@[simp] theorem respond_rspsRev (a : Answer) (s : State) : (respond a s).rspsRev = ⟨s.now, a⟩ :: s.rspsRev := rfl
@[simp] theorem respond_host (a : Answer) (s : State) : (respond a s).host = s.host := rfl
@[simp] theorem respond_resets (a : Answer) (s : State) : (respond a s).resets = s.resets := rfl

/-! ### `respondOk` -/

@[simp] theorem respondOk_cfg (d : BitVec 24) (s : State) : (respondOk d s).cfg = s.cfg := rfl
@[simp] theorem respondOk_acceptedRev (d : BitVec 24) (s : State) : (respondOk d s).acceptedRev = s.acceptedRev := rfl
@[simp] theorem respondOk_mode (d : BitVec 24) (s : State) : (respondOk d s).mode = s.mode := rfl
@[simp] theorem respondOk_ledcnt (d : BitVec 24) (s : State) : (respondOk d s).ledcnt = s.ledcnt := rfl
@[simp] theorem respondOk_pinsel (d : BitVec 24) (s : State) : (respondOk d s).pinsel = s.pinsel := rfl
@[simp] theorem respondOk_pixels (d : BitVec 24) (s : State) : (respondOk d s).pixels = s.pixels := rfl
@[simp] theorem respondOk_phase (d : BitVec 24) (s : State) : (respondOk d s).phase = s.phase := rfl
@[simp] theorem respondOk_pc (d : BitVec 24) (s : State) : (respondOk d s).pc = s.pc := rfl
@[simp] theorem respondOk_gapcnt (d : BitVec 24) (s : State) : (respondOk d s).gapcnt = s.gapcnt := rfl
@[simp] theorem respondOk_doutOe (d : BitVec 24) (s : State) : (respondOk d s).doutOe = s.doutOe := rfl
@[simp] theorem respondOk_wireRev (d : BitVec 24) (s : State) : (respondOk d s).wireRev = s.wireRev := rfl
@[simp] theorem respondOk_rspsRev (d : BitVec 24) (s : State) : (respondOk d s).rspsRev = ⟨s.now, .ok d⟩ :: s.rspsRev := rfl
@[simp] theorem respondOk_host (d : BitVec 24) (s : State) : (respondOk d s).host = s.host := rfl
@[simp] theorem respondOk_resets (d : BitVec 24) (s : State) : (respondOk d s).resets = s.resets := rfl

/-! ### `takeFault` -/

@[simp] theorem takeFault_cfg (f : CmdFault) (s : State) : (takeFault f s).cfg = s.cfg := rfl
@[simp] theorem takeFault_acceptedRev (f : CmdFault) (s : State) : (takeFault f s).acceptedRev = s.acceptedRev := rfl
@[simp] theorem takeFault_mode (f : CmdFault) (s : State) : (takeFault f s).mode = f.modeAfter s.mode := rfl
@[simp] theorem takeFault_ledcnt (f : CmdFault) (s : State) : (takeFault f s).ledcnt = s.ledcnt := rfl
@[simp] theorem takeFault_pinsel (f : CmdFault) (s : State) : (takeFault f s).pinsel = s.pinsel := rfl
@[simp] theorem takeFault_pixels (f : CmdFault) (s : State) : (takeFault f s).pixels = s.pixels := rfl
@[simp] theorem takeFault_phase (f : CmdFault) (s : State) : (takeFault f s).phase = s.phase := rfl
@[simp] theorem takeFault_pc (f : CmdFault) (s : State) : (takeFault f s).pc = s.pc := rfl
@[simp] theorem takeFault_gapcnt (f : CmdFault) (s : State) : (takeFault f s).gapcnt = s.gapcnt := rfl
@[simp] theorem takeFault_doutOe (f : CmdFault) (s : State) : (takeFault f s).doutOe = s.doutOe := rfl
@[simp] theorem takeFault_wireRev (f : CmdFault) (s : State) : (takeFault f s).wireRev = s.wireRev := rfl
@[simp] theorem takeFault_rspsRev (f : CmdFault) (s : State) : (takeFault f s).rspsRev = ⟨s.now, .fault f⟩ :: s.rspsRev := rfl
@[simp] theorem takeFault_host (f : CmdFault) (s : State) : (takeFault f s).host = s.host := rfl
@[simp] theorem takeFault_resets (f : CmdFault) (s : State) : (takeFault f s).resets = s.resets := rfl

/-! ### `endTick` -/

@[simp] theorem endTick_cfg (u s : State) : (endTick u s).cfg = s.cfg := rfl
@[simp] theorem endTick_acceptedRev (u s : State) :
    (endTick u s).acceptedRev = if u.accepts then ⟨u.now, u.port.cmdWord⟩ :: s.acceptedRev else s.acceptedRev := rfl
@[simp] theorem endTick_mode (u s : State) : (endTick u s).mode = s.mode := rfl
@[simp] theorem endTick_ledcnt (u s : State) : (endTick u s).ledcnt = s.ledcnt := rfl
@[simp] theorem endTick_pinsel (u s : State) : (endTick u s).pinsel = s.pinsel := rfl
@[simp] theorem endTick_pixels (u s : State) : (endTick u s).pixels = s.pixels := rfl
@[simp] theorem endTick_phase (u s : State) : (endTick u s).phase = s.phase := rfl
@[simp] theorem endTick_pc (u s : State) : (endTick u s).pc = s.pc := rfl
@[simp] theorem endTick_gapcnt (u s : State) : (endTick u s).gapcnt = s.gapcnt := rfl
@[simp] theorem endTick_doutOe (u s : State) : (endTick u s).doutOe = s.doutOe := rfl
@[simp] theorem endTick_wireRev (u s : State) : (endTick u s).wireRev = u.level :: s.wireRev := rfl
@[simp] theorem endTick_rspsRev (u s : State) : (endTick u s).rspsRev = s.rspsRev := rfl
@[simp] theorem endTick_host (u s : State) : (endTick u s).host = u.hostNext := rfl
@[simp] theorem endTick_resets (u s : State) : (endTick u s).resets = s.resets := rfl

/-! ### `resetBlock` -/

@[simp] theorem resetBlock_cfg (s : State) : (resetBlock s).cfg = s.cfg := rfl
@[simp] theorem resetBlock_acceptedRev (s : State) : (resetBlock s).acceptedRev = s.acceptedRev := rfl
@[simp] theorem resetBlock_mode (s : State) : (resetBlock s).mode = .uninit := rfl
@[simp] theorem resetBlock_ledcnt (s : State) : (resetBlock s).ledcnt = 0 := rfl
@[simp] theorem resetBlock_pinsel (s : State) : (resetBlock s).pinsel = 0 := rfl
@[simp] theorem resetBlock_pixels (s : State) : (resetBlock s).pixels = resetPixels s.cfg.nMax (s.resets + 1) := rfl
@[simp] theorem resetBlock_phase (s : State) : (resetBlock s).phase = .idle := rfl
@[simp] theorem resetBlock_pc (s : State) : (resetBlock s).pc = Cursor.idle := rfl
@[simp] theorem resetBlock_gapcnt (s : State) : (resetBlock s).gapcnt = 0 := rfl
@[simp] theorem resetBlock_doutOe (s : State) : (resetBlock s).doutOe = false := rfl
@[simp] theorem resetBlock_wireRev (s : State) : (resetBlock s).wireRev = s.wireRev := rfl
@[simp] theorem resetBlock_rspsRev (s : State) : (resetBlock s).rspsRev = s.rspsRev := rfl
@[simp] theorem resetBlock_host (s : State) : (resetBlock s).host = s.host := rfl
@[simp] theorem resetBlock_resets (s : State) : (resetBlock s).resets = s.resets + 1 := rfl

/-! ### `State.withFetchWord` -/

@[simp] theorem State.withFetchWord_cfg (s : State) (nbits w : Nat) : (s.withFetchWord nbits w).cfg = s.cfg := rfl
@[simp] theorem State.withFetchWord_acceptedRev (s : State) (nbits w : Nat) : (s.withFetchWord nbits w).acceptedRev = s.acceptedRev := rfl
@[simp] theorem State.withFetchWord_mode (s : State) (nbits w : Nat) : (s.withFetchWord nbits w).mode = s.mode := rfl
@[simp] theorem State.withFetchWord_ledcnt (s : State) (nbits w : Nat) : (s.withFetchWord nbits w).ledcnt = s.ledcnt := rfl
@[simp] theorem State.withFetchWord_pinsel (s : State) (nbits w : Nat) : (s.withFetchWord nbits w).pinsel = s.pinsel := rfl
@[simp] theorem State.withFetchWord_pixels (s : State) (nbits w : Nat) : (s.withFetchWord nbits w).pixels = s.pixels := rfl
@[simp] theorem State.withFetchWord_phase (s : State) (nbits w : Nat) : (s.withFetchWord nbits w).phase = s.phase := rfl
@[simp] theorem State.withFetchWord_pc (s : State) (nbits w : Nat) : (s.withFetchWord nbits w).pc = s.pc := rfl
@[simp] theorem State.withFetchWord_gapcnt (s : State) (nbits w : Nat) : (s.withFetchWord nbits w).gapcnt = s.gapcnt := rfl
@[simp] theorem State.withFetchWord_doutOe (s : State) (nbits w : Nat) : (s.withFetchWord nbits w).doutOe = s.doutOe := rfl
@[simp] theorem State.withFetchWord_wireRev (s : State) (nbits w : Nat) : (s.withFetchWord nbits w).wireRev = s.wireRev := rfl
@[simp] theorem State.withFetchWord_rspsRev (s : State) (nbits w : Nat) : (s.withFetchWord nbits w).rspsRev = s.rspsRev := rfl
@[simp] theorem State.withFetchWord_host (s : State) (nbits w : Nat) : (s.withFetchWord nbits w).host = .hold (portWord nbits w) true :: s.host := rfl
@[simp] theorem State.withFetchWord_resets (s : State) (nbits w : Nat) : (s.withFetchWord nbits w).resets = s.resets := rfl

/-! ### `State.load` -/

@[simp] theorem State.load_cfg (s : State) (tg : Bool) (prog : List Instr) : (s.load tg prog).cfg = s.cfg := rfl
@[simp] theorem State.load_acceptedRev (s : State) (tg : Bool) (prog : List Instr) : (s.load tg prog).acceptedRev = s.acceptedRev := rfl
@[simp] theorem State.load_mode (s : State) (tg : Bool) (prog : List Instr) : (s.load tg prog).mode = s.mode := rfl
@[simp] theorem State.load_ledcnt (s : State) (tg : Bool) (prog : List Instr) : (s.load tg prog).ledcnt = s.ledcnt := rfl
@[simp] theorem State.load_pinsel (s : State) (tg : Bool) (prog : List Instr) : (s.load tg prog).pinsel = s.pinsel := rfl
@[simp] theorem State.load_pixels (s : State) (tg : Bool) (prog : List Instr) : (s.load tg prog).pixels = s.pixels := rfl
@[simp] theorem State.load_phase (s : State) (tg : Bool) (prog : List Instr) : (s.load tg prog).phase = s.phase := rfl
@[simp] theorem State.load_pc (s : State) (tg : Bool) (prog : List Instr) : (s.load tg prog).pc = s.pc := rfl
@[simp] theorem State.load_gapcnt (s : State) (tg : Bool) (prog : List Instr) : (s.load tg prog).gapcnt = s.gapcnt := rfl
@[simp] theorem State.load_doutOe (s : State) (tg : Bool) (prog : List Instr) : (s.load tg prog).doutOe = s.doutOe := rfl
@[simp] theorem State.load_wireRev (s : State) (tg : Bool) (prog : List Instr) : (s.load tg prog).wireRev = s.wireRev := rfl
@[simp] theorem State.load_rspsRev (s : State) (tg : Bool) (prog : List Instr) : (s.load tg prog).rspsRev = s.rspsRev := rfl
@[simp] theorem State.load_host (s : State) (tg : Bool) (prog : List Instr) : (s.load tg prog).host = prog.map fun i => .hold (encode i) tg := rfl
@[simp] theorem State.load_resets (s : State) (tg : Bool) (prog : List Instr) : (s.load tg prog).resets = s.resets := rfl

/-! ### the modes a fault leaves -/

@[simp] theorem modeAfter_illegalCommand (w : Word) (m : Mode) : (CmdFault.illegalCommand w).modeAfter m = m := rfl
@[simp] theorem modeAfter_stateError (k m : Mode) : (CmdFault.stateError k).modeAfter m = m := rfl
@[simp] theorem modeAfter_indexRange (i : BitVec 5) (m : Mode) : (CmdFault.indexRange i).modeAfter m = m := rfl
@[simp] theorem modeAfter_coordRange (x y : BitVec 3) (m : Mode) : (CmdFault.coordRange x y).modeAfter m = m := rfl
@[simp] theorem modeAfter_configError (n : BitVec 8) (m : Mode) : (CmdFault.configError n).modeAfter m = m := rfl
@[simp] theorem modeAfter_noTimingResource (m : Mode) : CmdFault.noTimingResource.modeAfter m = .fatal := rfl

/-! ### the record and the ports -/

@[simp] theorem respond_now (a : Answer) (s : State) : (respond a s).now = s.now := rfl
@[simp] theorem takeFault_now (f : CmdFault) (s : State) : (takeFault f s).now = s.now := rfl
@[simp] theorem endTick_now (u s : State) : (endTick u s).now = s.now + 1 := rfl

@[simp] theorem endTick_wire (u s : State) : (endTick u s).wire = s.wire ++ [u.level] := by
  simp [State.wire]

theorem endTick_accepted_of_accepts {u : State} (h : u.accepts = true) (s : State) :
    (endTick u s).accepted = s.accepted ++ [⟨u.now, u.port.cmdWord⟩] := by
  simp [State.accepted, h]

theorem endTick_accepted_of_no_command {u : State} (h : u.accepts = false) (s : State) :
    (endTick u s).accepted = s.accepted := by
  simp [State.accepted, h]

@[simp] theorem respond_wire (a : Answer) (s : State) : (respond a s).wire = s.wire := rfl
@[simp] theorem endTick_rsps (u s : State) : (endTick u s).rsps = s.rsps := rfl

@[simp] theorem respond_rsps (a : Answer) (s : State) : (respond a s).rsps = s.rsps ++ [⟨s.now, a⟩] := by
  simp [State.rsps]

@[simp] theorem respond_port (a : Answer) (s : State) : (respond a s).port = s.port := rfl
@[simp] theorem takeFault_port (f : CmdFault) (s : State) : (takeFault f s).port = s.port := rfl

@[simp] theorem withFetchWord_port (s : State) (nbits w : Nat) :
    (s.withFetchWord nbits w).port = ⟨false, true, portWord nbits w, true⟩ := rfl

end Sys2Proof.Machine
end

