-- ==== Sys2Proof/Laws/Ops.lean ====
section
/-! SUPPORT. One lemma per shared operation saying everything it can do, to be cited instead of unfolding it: the gate of
acceptance, continuing from a next state, the pixel registers, the cursor, the serializer's ticks, and the step. -/

namespace Sys2Proof.Machine

/-! ### the widths by value, for arithmetic procedures that do not unfold their names -/

theorem word_toNat_lt (w : Word) : w.toNat < 4294967296 := w.isLt
theorem pin_toNat_lt (p : Pin) : p.toNat < 256 := p.isLt

/-! ### what a legal configuration says, as propositions (00_scope.md R9) -/

theorem params_legal_iff {p : Params} :
    p.legal = true ↔ 1 ≤ p.nMax ∧ p.nMax ≤ 31 ∧ 0 < p.t0h ∧ p.t0h < p.t1h ∧ p.t1h < p.cellTicks ∧ p.cellTicks ≤ 16
      ∧ 1 ≤ p.resetTicks ∧ p.resetTicks ≤ 1024 ∧ p.tickHz ≤ p.resetTicks * 10000 := by
  simp [Params.legal, and_assoc]

theorem highTicks_lt_cell {p : Params} (h : p.legal = true) (b : Bool) : highTicks p b < p.cellTicks := by
  have := params_legal_iff.mp h
  cases b <;> simp only [highTicks, if_true, Bool.false_eq_true, if_false] <;> omega

theorem cell_length {p : Params} (h : p.legal = true) (b : Bool) : (cell p b).length = p.cellTicks := by
  have := highTicks_lt_cell h b
  simp only [cell, List.length_append, List.length_replicate]
  omega

/-- With the bit rate kept, no low run inside a frame is as long as the reset gap (42_write_serializer.md R88). -/
theorem low_run_below_gap {p : Params} (h : p.legal = true) (hr : p.bitRateKept = true) :
    p.cellTicks - p.t0h < p.resetTicks := by
  have := params_legal_iff.mp h
  simp only [Params.bitRateKept, Config.bitRate, decide_eq_true_eq] at hr
  omega

/-! ### counters advance without wrapping inside their ranges -/

theorem tick_succ {p : Params} (hp : p.legal = true) {c : BitVec 4} (h : c.toNat < p.cellTicks - 1) :
    (c + 1).toNat = c.toNat + 1 := by
  have := params_legal_iff.mp hp
  rw [BitVec.toNat_add]; simp; omega

theorem gapcnt_succ {p : Params} (hp : p.legal = true) {c : BitVec 10} (h : c.toNat < p.resetTicks - 1) :
    (c + 1).toNat = c.toNat + 1 := by
  have := params_legal_iff.mp hp
  rw [BitVec.toNat_add]; simp; omega

theorem pix_succ {p : Params} (hp : p.legal = true) {c : BitVec 5} (h : c.toNat < p.nMax) :
    (c + 1).toNat = c.toNat + 1 := by
  have := params_legal_iff.mp hp
  rw [BitVec.toNat_add]; simp; omega

theorem bit_pred {c : BitVec 3} (h : 0 < c.toNat) : (c - 1).toNat = c.toNat - 1 := by
  rw [BitVec.toNat_sub]; simp; omega

/-! ### continuing and the gate -/

theorem onNext_eq_next {f : State → State} {o : Out} {t : State} :
    onNext f o = .next t ↔ ∃ s, o = .next s ∧ t = f s := by
  cases o <;> simp [onNext, eq_comm]

theorem ifReady_eq_next {s t : State} {body : Out} :
    ifReady s body = .next t ↔ (s.cmdReady = false ∧ t = s) ∨ (s.cmdReady = true ∧ body = .next t) := by
  cases h : s.cmdReady <;> simp [ifReady, h, eq_comm]

@[simp] theorem raise_eq_next {f : CmdFault} {s t : State} : raise f s = .next t ↔ t = takeFault f s := by
  simp [raise, eq_comm]

theorem cmdReady_iff {s : State} :
    s.cmdReady = true ↔ s.mode ≠ .fatal ∧ s.phase = .idle ∧ s.port.rst = false := by
  simp [State.cmdReady, and_assoc]

theorem accepts_iff {s : State} : s.accepts = true ↔ s.port.cmdValid = true ∧ s.cmdReady = true := by
  simp [State.accepts]

theorem accepts_false_of_busy {s : State} (h : s.phase ≠ .idle) : s.accepts = false := by
  cases hp : s.phase <;> simp_all [State.accepts, State.cmdReady]

theorem accepts_false_of_fatal {s : State} (h : s.mode = .fatal) : s.accepts = false := by
  simp [State.accepts, State.cmdReady, h]

/-! ### the pixel registers -/

theorem pixel?_of_lt {s : State} {i : Nat} (h : i < s.pixels.length) : s.pixel? i = some s.pixels[i] := by
  simp [State.pixel?, h]

theorem pixel?_of_ge {s : State} {i : Nat} (h : s.pixels.length ≤ i) : s.pixel? i = none := by
  simp [State.pixel?, h]

theorem setPixel_eq_next {s t : State} {i : Nat} {v : Pixel} :
    s.setPixel i v = .next t ↔ i < s.pixels.length ∧ t = { s with pixels := s.pixels.set i v } := by
  unfold State.setPixel
  split <;> simp_all [eq_comm]

@[simp] theorem clearBelow_length (n : Nat) (v : List Pixel) : (clearBelow n v).length = v.length := by
  induction n with
  | zero => rfl
  | succ n ih => simp [clearBelow, ih]

theorem clearBelow_getElem? (n j : Nat) (v : List Pixel) :
    (clearBelow n v)[j]? = if j < n ∧ j < v.length then some 0 else v[j]? := by
  induction n with
  | zero => simp [clearBelow]
  | succ n ih =>
    rw [clearBelow, List.getElem?_set, ih, clearBelow_length]
    by_cases hj : n = j
    · subst hj
      by_cases hn : n < v.length <;> simp [hn]
    · simp only [hj, if_false]
      congr 1
      simp only [eq_iff_iff]
      omega

@[simp] theorem putPixels_length (vs : List Pixel) (i : Nat) (v : List Pixel) : (putPixels i vs v).length = v.length := by
  induction vs generalizing i v with
  | nil => rfl
  | cons p vs ih => simp [putPixels, ih]

theorem putPixels_getElem? (vs : List Pixel) (i j : Nat) (v : List Pixel) :
    (putPixels i vs v)[j]? = if i ≤ j ∧ j < i + vs.length ∧ j < v.length then vs[j - i]? else v[j]? := by
  induction vs generalizing i v with
  | nil =>
    have h : ¬ (i ≤ j ∧ j < i + ([] : List Pixel).length ∧ j < v.length) := by simp; omega
    rw [if_neg h]; rfl
  | cons p vs ih =>
    rw [putPixels, ih, List.getElem?_set, List.length_set]
    by_cases hij : i = j
    · subst hij
      by_cases hn : i < v.length <;> simp [hn]
    · by_cases h : i + 1 ≤ j ∧ j < i + 1 + vs.length ∧ j < v.length
      · have h' : i ≤ j ∧ j < i + (p :: vs).length ∧ j < v.length := by simp; omega
        rw [if_pos h, if_pos h', show j - i = (j - (i + 1)) + 1 by omega, List.getElem?_cons_succ]
      · have h' : ¬ (i ≤ j ∧ j < i + (p :: vs).length ∧ j < v.length) := by simp; omega
        rw [if_neg h, if_neg h', if_neg hij]

@[simp] theorem resetPixels_length (n k : Nat) : (resetPixels n k).length = n := by simp [resetPixels]

theorem resetPixels_getElem? {n k i : Nat} (h : i < n) : (resetPixels n k)[i]? = some (Config.resetPixel k i) := by
  simp [resetPixels, h]

/-! ### the cursor and the serializer -/

/-- Every way the cursor can advance (R81), and when it cannot. -/
theorem advance_eq_some {p : Params} {n : BitVec 8} {c d : Cursor} (h : c.advance p n = some d) :
    (c.tick.toNat < p.cellTicks - 1 ∧ d = { c with tick := c.tick + 1 })
    ∨ (p.cellTicks - 1 ≤ c.tick.toNat ∧ 0 < c.bit.toNat ∧ d = { c with bit := c.bit - 1, tick := 0 })
    ∨ (p.cellTicks - 1 ≤ c.tick.toNat ∧ c.bit.toNat = 0
        ∧ ∃ b, c.byte.next? = some b ∧ d = { c with byte := b, bit := 7, tick := 0 })
    ∨ (p.cellTicks - 1 ≤ c.tick.toNat ∧ c.bit.toNat = 0 ∧ c.byte = .blue
        ∧ c.pix.toNat + 1 < n.toNat ∧ d = ⟨c.pix + 1, .green, 7, 0⟩) := by
  unfold Cursor.advance at h
  split at h
  · simp_all
  · split at h
    · simp_all
    · cases hb : c.byte <;> simp_all [WireByte.next?]

theorem advance_eq_none {p : Params} {n : BitVec 8} {c : Cursor} (h : c.advance p n = none) :
    p.cellTicks - 1 ≤ c.tick.toNat ∧ c.bit.toNat = 0 ∧ c.byte = .blue ∧ n.toNat ≤ c.pix.toNat + 1 := by
  unfold Cursor.advance at h
  split at h
  · simp_all
  · split at h
    · simp_all
    · cases hb : c.byte <;> simp_all [WireByte.next?]

theorem shiftTick_eq_next {s t : State} (h : shiftTick s = .next t) :
    s.pc.pix.toNat < s.pixels.length
    ∧ ((∃ c, s.pc.advance s.cfg s.ledcnt = some c ∧ t = { s with pc := c })
      ∨ (s.pc.advance s.cfg s.ledcnt = none ∧ t = { s with pc := Cursor.idle, phase := .gap, gapcnt := 0 })) := by
  unfold shiftTick at h
  split at h
  · next hp =>
    refine ⟨hp, ?_⟩
    cases ha : s.pc.advance s.cfg s.ledcnt with
    | some c => simp [ha] at h; exact .inl ⟨c, rfl, h.symm⟩
    | none => simp [ha] at h; exact .inr ⟨rfl, h.symm⟩
  · cases h

theorem gapTick_eq_next {s t : State} (h : gapTick s = .next t) :
    (s.gapcnt.toNat < s.cfg.resetTicks - 1 ∧ t = { s with gapcnt := s.gapcnt + 1 })
    ∨ (s.cfg.resetTicks - 1 ≤ s.gapcnt.toNat ∧ t = respondOk 0 { s with gapcnt := 0, phase := .idle }) := by
  unfold gapTick at h
  split at h
  · next hg => exact .inl ⟨hg, by simpa [eq_comm] using h⟩
  · next hg => exact .inr ⟨by omega, by simpa [eq_comm] using h⟩

/-- Everything a serializer step can do (R79). -/
theorem serialize_eq_next {s t : State} (h : serialize s = .next t) :
    (s.phase = .idle ∧ t = s)
    ∨ (s.phase = .shift ∧ shiftTick s = .next t)
    ∨ (s.phase = .gap ∧ gapTick s = .next t) := by
  cases hp : s.phase <;> simp_all [serialize]

/-! ### the step -/

theorem step_of_rst {s : State} (h : s.port.rst = true) : step s = .next (endTick s (resetBlock s)) := by
  simp [step, tick, h]

theorem step_of_accepts {s : State} (h : s.accepts = true) :
    step s = onNext (endTick s) (command s.port.cmdWord s) := by
  have hr := (cmdReady_iff.mp (accepts_iff.mp h).2).2.2
  simp [step, tick, h, hr]

theorem step_of_no_command {s : State} (hr : s.port.rst = false) (ha : s.accepts = false) :
    step s = onNext (endTick s) (serialize s) := by
  simp [step, tick, ha, hr]

/-- Everything the command unit can do with an accepted word. -/
theorem command_eq_next {w : Word} {s t : State} (h : command w s = .next t) :
    (∃ i, decode w = .ok i ∧ exec i s = .next t)
    ∨ ((∃ e, decode w = .error e) ∧ s.cmdReady = true ∧ t = takeFault (.illegalCommand w) s)
    ∨ ((∃ e, decode w = .error e) ∧ s.cmdReady = false ∧ t = s) := by
  unfold command at h
  split at h
  · next i hi => exact .inl ⟨i, hi, h⟩
  · next e he =>
    rcases ifReady_eq_next.mp h with ⟨h1, h2⟩ | ⟨h1, h2⟩
    · exact .inr (.inr ⟨⟨e, he⟩, h1, h2⟩)
    · exact .inr (.inl ⟨⟨e, he⟩, h1, raise_eq_next.mp h2⟩)

/-- Everything a tick can do: reset, an accepted word, or the serializer, and then the end of the tick. -/
theorem step_eq_next {s t : State} (h : step s = .next t) :
    ∃ u, t = endTick s u
      ∧ ((s.port.rst = true ∧ u = resetBlock s)
        ∨ (s.port.rst = false ∧ s.accepts = true ∧ command s.port.cmdWord s = .next u)
        ∨ (s.port.rst = false ∧ s.accepts = false ∧ serialize s = .next u)) := by
  cases hr : s.port.rst with
  | true =>
    rw [step_of_rst hr] at h
    exact ⟨_, by simpa [eq_comm] using h, .inl ⟨rfl, rfl⟩⟩
  | false =>
    cases ha : s.accepts with
    | true =>
      rw [step_of_accepts ha] at h
      obtain ⟨u, hu, rfl⟩ := onNext_eq_next.mp h
      exact ⟨u, rfl, .inr (.inl ⟨rfl, rfl, hu⟩)⟩
    | false =>
      rw [step_of_no_command hr ha] at h
      obtain ⟨u, hu, rfl⟩ := onNext_eq_next.mp h
      exact ⟨u, rfl, .inr (.inr ⟨rfl, rfl, hu⟩)⟩

/-- Ticks add up. -/
theorem ticks_add {a : Nat} {s t : State} (h : ticks a s = .next t) (b : Nat) : ticks (a + b) s = ticks b t := by
  induction a generalizing s with
  | zero => simp [ticks] at h; simp [h]
  | succ a ih =>
    rw [show a + 1 + b = (a + b) + 1 by omega]
    simp only [ticks] at h ⊢
    split at h
    · next u hu => simp only [ih h]
    all_goals cases h

theorem ticks_one (s : State) : ticks 1 s = step s := by
  simp only [ticks]
  cases step s <;> rfl

/-- The acts to come are among those that were to come. -/
theorem mem_of_mem_hostNext {s : State} {a : HostAct} (h : a ∈ s.hostNext) : a ∈ s.host := by
  unfold State.hostNext at h
  split at h
  · simp at h
  · next hs => rw [hs]; exact List.mem_cons_of_mem _ h
  · next hs =>
    rw [hs]
    split at h
    · exact List.mem_cons_of_mem _ h
    · exact h

theorem port_rst_of_noReset {s : State} (h : s.noReset) : s.port.rst = false := by
  unfold State.port
  split
  · rfl
  · next a rest hs => exact h a (by simp [hs])

end Sys2Proof.Machine
end

