-- ==== Sys2Proof/Laws/Exec.lean ====
section
/-! SUPPORT. One inversion lemma per meaning: if it answers a next state, then one of these cases holds. -/

namespace Sys2Proof.Machine

theorem execInit_eq_next {pin : Pin} {n : BitVec 8} {s t : State} (h : execInit pin n s = .next t) :
    (s.cmdReady = false ∧ t = s)
    ∨ (s.cmdReady = true ∧ s.mode ≠ .uninit ∧ t = takeFault (.stateError s.mode) s)
    ∨ (s.cmdReady = true ∧ s.mode = .uninit ∧ countBad n s = true ∧ t = takeFault (.configError n) s)
    ∨ (s.cmdReady = true ∧ s.mode = .uninit ∧ countBad n s = false ∧ s.port.tgAvail = false
        ∧ t = takeFault .noTimingResource s)
    ∨ (s.cmdReady = true ∧ s.mode = .uninit ∧ countBad n s = false ∧ s.port.tgAvail = true
        ∧ t = respondOk 0 { s with ledcnt := n, pinsel := pin, doutOe := true, mode := .ready }) := by
  rcases ifReady_eq_next.mp h with ⟨h1, h2⟩ | ⟨h1, h2⟩
  · exact .inl ⟨h1, h2⟩
  · split at h2
    · next hm => exact .inr (.inl ⟨h1, hm, raise_eq_next.mp h2⟩)
    · next hm =>
      simp only [ne_eq, Decidable.not_not] at hm
      split at h2
      · next hc => exact .inr (.inr (.inl ⟨h1, hm, hc, raise_eq_next.mp h2⟩))
      · next hc =>
        simp only [Bool.not_eq_true] at hc
        split at h2
        · next ht => exact .inr (.inr (.inr (.inl ⟨h1, hm, hc, by simpa using ht, raise_eq_next.mp h2⟩)))
        · next ht =>
          exact .inr (.inr (.inr (.inr ⟨h1, hm, hc, by simpa using ht, by simpa [eq_comm] using h2⟩)))

theorem execRdstat_eq_next {s t : State} (h : execRdstat s = .next t) :
    (s.cmdReady = false ∧ t = s) ∨ (s.cmdReady = true ∧ t = respondOk s.statusView s) := by
  rcases ifReady_eq_next.mp h with ⟨h1, h2⟩ | ⟨h1, h2⟩
  · exact .inl ⟨h1, h2⟩
  · exact .inr ⟨h1, by simpa [eq_comm] using h2⟩

theorem execClear_eq_next {s t : State} (h : execClear s = .next t) :
    (s.cmdReady = false ∧ t = s)
    ∨ (s.cmdReady = true ∧ s.mode ≠ .ready ∧ t = takeFault (.stateError s.mode) s)
    ∨ (s.cmdReady = true ∧ s.mode = .ready ∧ s.ledcnt.toNat ≤ s.pixels.length
        ∧ t = respondOk 0 { s with pixels := clearBelow s.ledcnt.toNat s.pixels }) := by
  rcases ifReady_eq_next.mp h with ⟨h1, h2⟩ | ⟨h1, h2⟩
  · exact .inl ⟨h1, h2⟩
  · split at h2
    · next hm => exact .inr (.inl ⟨h1, hm, raise_eq_next.mp h2⟩)
    · next hm =>
      simp only [ne_eq, Decidable.not_not] at hm
      split at h2
      · cases h2
      · next hl => exact .inr (.inr ⟨h1, hm, by omega, by simpa [eq_comm] using h2⟩)

theorem execSetpix_eq_next {i : BitVec 5} {r g b : Byte} {s t : State} (h : execSetpix i r g b s = .next t) :
    (s.cmdReady = false ∧ t = s)
    ∨ (s.cmdReady = true ∧ s.mode ≠ .ready ∧ t = takeFault (.stateError s.mode) s)
    ∨ (s.cmdReady = true ∧ s.mode = .ready ∧ s.ledcnt.toNat ≤ i.toNat ∧ t = takeFault (.indexRange i) s)
    ∨ (s.cmdReady = true ∧ s.mode = .ready ∧ i.toNat < s.ledcnt.toNat ∧ i.toNat < s.pixels.length
        ∧ t = respondOk 0 { s with pixels := s.pixels.set i.toNat (packRgb r g b) }) := by
  rcases ifReady_eq_next.mp h with ⟨h1, h2⟩ | ⟨h1, h2⟩
  · exact .inl ⟨h1, h2⟩
  · split at h2
    · next hm => exact .inr (.inl ⟨h1, hm, raise_eq_next.mp h2⟩)
    · next hm =>
      simp only [ne_eq, Decidable.not_not] at hm
      split at h2
      · next hi => exact .inr (.inr (.inl ⟨h1, hm, by simpa [indexOut] using hi, raise_eq_next.mp h2⟩))
      · next hi =>
        obtain ⟨u, hu, rfl⟩ := onNext_eq_next.mp h2
        obtain ⟨hn, rfl⟩ := setPixel_eq_next.mp hu
        exact .inr (.inr (.inr ⟨h1, hm, by simpa [indexOut] using hi, hn, rfl⟩))

theorem execRdpix_eq_next {i : BitVec 5} {s t : State} (h : execRdpix i s = .next t) :
    (s.cmdReady = false ∧ t = s)
    ∨ (s.cmdReady = true ∧ s.mode ≠ .ready ∧ t = takeFault (.stateError s.mode) s)
    ∨ (s.cmdReady = true ∧ s.mode = .ready ∧ s.ledcnt.toNat ≤ i.toNat ∧ t = takeFault (.indexRange i) s)
    ∨ (s.cmdReady = true ∧ s.mode = .ready ∧ i.toNat < s.ledcnt.toNat
        ∧ ∃ p, s.pixel? i.toNat = some p ∧ t = respondOk p s) := by
  rcases ifReady_eq_next.mp h with ⟨h1, h2⟩ | ⟨h1, h2⟩
  · exact .inl ⟨h1, h2⟩
  · split at h2
    · next hm => exact .inr (.inl ⟨h1, hm, raise_eq_next.mp h2⟩)
    · next hm =>
      simp only [ne_eq, Decidable.not_not] at hm
      split at h2
      · next hi => exact .inr (.inr (.inl ⟨h1, hm, by simpa [indexOut] using hi, raise_eq_next.mp h2⟩))
      · next hi =>
        split at h2
        · next p hp =>
          exact .inr (.inr (.inr ⟨h1, hm, by simpa [indexOut] using hi, p, hp, by simpa [eq_comm] using h2⟩))
        · cases h2

theorem execWrite_eq_next {s t : State} (h : execWrite s = .next t) :
    (s.cmdReady = false ∧ t = s)
    ∨ (s.cmdReady = true ∧ s.mode ≠ .ready ∧ t = takeFault (.stateError s.mode) s)
    ∨ (s.cmdReady = true ∧ s.mode = .ready ∧ t = { s with phase := .shift, pc := Cursor.idle }) := by
  rcases ifReady_eq_next.mp h with ⟨h1, h2⟩ | ⟨h1, h2⟩
  · exact .inl ⟨h1, h2⟩
  · split at h2
    · next hm => exact .inr (.inl ⟨h1, hm, raise_eq_next.mp h2⟩)
    · next hm =>
      simp only [ne_eq, Decidable.not_not] at hm
      exact .inr (.inr ⟨h1, hm, by simpa [eq_comm] using h2⟩)

theorem execMap_eq_next {x y : BitVec 3} {s t : State} (h : execMap x y s = .next t) :
    (s.cmdReady = false ∧ t = s)
    ∨ (s.cmdReady = true ∧ coordOut x y = true ∧ t = takeFault (.coordRange x y) s)
    ∨ (s.cmdReady = true ∧ coordOut x y = false
        ∧ t = respondOk (BitVec.ofNat 24 (mapIndex x.toNat y.toNat)) s) := by
  rcases ifReady_eq_next.mp h with ⟨h1, h2⟩ | ⟨h1, h2⟩
  · exact .inl ⟨h1, h2⟩
  · split at h2
    · next hc => exact .inr (.inl ⟨h1, hc, raise_eq_next.mp h2⟩)
    · next hc => exact .inr (.inr ⟨h1, by simpa using hc, by simpa [eq_comm] using h2⟩)

end Sys2Proof.Machine
end

