-- ==== Sys2Proof/Laws/PerInstr.lean ====
section
/-! SUPPORT. Per instruction, about its syntax: the word it encodes to is matched by its own row of the opcode map, whatever
its operands (30_encoding.md R57). -/

namespace Sys2Proof.Laws.RowMatch

/-- The encoded word has its row's fixed bits. -/
def Statement (i : Instr) : Prop := (rowOf i).hits (encode i) = true

/-- A word hits a row when each of its 32 bits that the mask selects is the pattern's. -/
theorem hits_of_bits {row : OpRow} {w : Word}
    (h : ∀ k : Fin 32, (w.getLsbD k && row.mask.getLsbD k) = row.pattern.getLsbD k) : row.hits w = true := by
  simp only [OpRow.hits, beq_iff_eq]
  apply BitVec.eq_of_getLsbD_eq
  intro k hk
  rw [BitVec.getLsbD_and]
  exact h ⟨k, hk⟩

theorem init (pin : Pin) (ledCount : BitVec 8) : Statement (.init pin ledCount) := by
  apply hits_of_bits
  intro k
  fin_cases k <;> simp [encode, rowOf, rowInit, fieldAt]

theorem clear : Statement .clear := by unfold Statement; decide

theorem setpix (index : BitVec 5) (r g b : Byte) : Statement (.setpix index r g b) := by
  apply hits_of_bits
  intro k
  fin_cases k <;> simp [encode, rowOf, rowSetpix, fieldAt]

theorem write : Statement .write := by unfold Statement; decide

theorem map (x y : BitVec 3) : Statement (.map x y) := by
  apply hits_of_bits
  intro k
  fin_cases k <;> simp [encode, rowOf, rowMap, fieldAt]

theorem rdpix (index : BitVec 5) : Statement (.rdpix index) := by
  apply hits_of_bits
  intro k
  fin_cases k <;> simp [encode, rowOf, rowRdpix, fieldAt]

theorem rdstat : Statement .rdstat := by unfold Statement; decide

end Sys2Proof.Laws.RowMatch
end

