-- ==== Sys2Proof/Tests/Slice0.lean ====
section
/-! SUPPORT. Named tests. Expected results come from the spec: the words and responses of 95_test_vectors.md (named V-…), the
constraints of 00_scope.md R9, and for each statement with hypotheses a state and operands that meet them (`witness_…`). -/

namespace Sys2Proof.Tests

open Sys2Proof Sys2Proof.Machine

/-! ### small states -/

/-- `s` with one word held on the port. -/
def offering (w : Word) (tg : Bool) (s : State) : State := { s with host := [.hold w tg] }

/-- The state after `INIT 7, n`, pixels all `0x102030`, nothing on the record. -/
def up (n : BitVec 8) : State :=
  { State.reset with
    mode := .ready
    ledcnt := n
    pinsel := 7
    doutOe := true
    pixels := List.replicate 25 0x102030#24 }

/-- A frame of `n` pixels in flight at cursor `c`. -/
def shifting (n : BitVec 8) (c : Cursor) : State := { up n with phase := .shift, pc := c }

/-- The reset gap after a frame, `g` ticks of it held. -/
def gapping (g : BitVec 10) : State := { up 2 with phase := .gap, gapcnt := g }

/-- Another configuration, legal by R9 and keeping the bit rate: a buffer of one pixel and cells of three ticks. -/
def small : Params := { nMax := 1, tickHz := 2400000, cellTicks := 3, t0h := 1, t1h := 2, resetTicks := 240 }

/-- The one pixel's frame in flight under `small`, at cursor `c`. -/
def smallShifting (c : Cursor) : State :=
  { State.resetAt small 0 with
    mode := .ready, ledcnt := 1, doutOe := true, phase := .shift, pc := c, pixels := [0x102030#24] }

/-- A program of one WRITE whose frame is in flight: accepted and not yet answered. -/
def writing : State := { gapping 799 with acceptedRev := [⟨0, 0x80000000⟩] }

/-- After V-I6. -/
def dead : State := { State.reset with mode := .fatal }

/-- `RST = 1` in this tick. -/
def underReset (s : State) : State := { s with host := [.pins ⟨true, false, 0, false⟩] }

/-- What one step gives, looked at through `f`; nothing if the model stops. -/
def after {α : Type} (f : State → α) (o : Out) : Option α :=
  match o with
  | .next s => some (f s)
  | _ => none

/-- The words answered so far. -/
def words (s : State) : List Word := s.rsps.map (·.answer.word)

/-! ### WellFormed: one ill-formed term per check (R9, R51 to R55, R63) -/

theorem test_hw_legal : Config.hw.legal = true ∧ Config.hw.bitRateKept = true := by decide
theorem test_illegal_nMax_zero : ({ Config.hw with nMax := 0 } : Params).legal = false := by decide
theorem test_illegal_nMax_above_31 : ({ Config.hw with nMax := 32 } : Params).legal = false := by decide
theorem test_illegal_t0h_zero : ({ Config.hw with t0h := 0 } : Params).legal = false := by decide
theorem test_illegal_t0h_not_below_t1h : ({ Config.hw with t0h := 7 } : Params).legal = false := by decide
theorem test_illegal_t1h_not_below_cell : ({ Config.hw with t1h := 10 } : Params).legal = false := by decide
theorem test_illegal_cell_above_16 : ({ Config.hw with cellTicks := 17 } : Params).legal = false := by decide
theorem test_illegal_reset_zero : ({ Config.hw with resetTicks := 0, tickHz := 0 } : Params).legal = false := by decide
theorem test_illegal_reset_above_1024 : ({ Config.hw with resetTicks := 1025 } : Params).legal = false := by decide
theorem test_illegal_reset_below_100us : ({ Config.hw with resetTicks := 799 } : Params).legal = false := by decide
theorem test_other_widths :
    Config.hw.encodable = true ∧ ({ Config.hw with pinBits := 7 } : Params).encodable = false
    ∧ ({ Config.hw with cmdBits := 16 } : Params).encodable = false
    ∧ ({ Config.hw with rspBits := 16 } : Params).encodable = false := by decide
theorem test_wrong_bit_rate : ({ Config.hw with cellTicks := 9 } : Params).bitRateKept = false := by decide

theorem test_ill_formed_lines :
    [AsmLine.init 256 25, .init 7 256, .setpix 32 0 0 0, .setpix 0 256 0 0, .setpix 0 0 256 0, .setpix 0 0 0 256,
      .map 8 0, .map 0 8, .rdpix 32, .setxy 5 0 0 0 0, .setxy 0 5 0 0 0, .setxy 0 0 256 0 0, .setxy 0 0 0 256 0,
      .setxy 0 0 0 0 256].all (fun l => !l.wellFormed) = true := by decide

theorem test_well_formed_lines :
    [AsmLine.init 255 255, .clear, .setpix 31 255 255 255, .write, .map 7 7, .rdpix 31, .rdstat,
      .setxy 4 4 255 255 255].all AsmLine.wellFormed = true := by decide

/-! ### decode: every constructor's word written out from the formats R51 to R55 -/

/-- V-D3: `001 0000000000000 00000111 00011001`. -/
theorem test_decode_init : decode 0b00100000000000000000011100011001#32 = .ok (.init 7 25) := by decide
/-- V-D7: `010` and 29 zeros. -/
theorem test_decode_clear : decode 0b01000000000000000000000000000000#32 = .ok .clear := by decide
/-- V-B11: `011 01100 00010010 00110100 01010110`. -/
theorem test_decode_setpix : decode 0b01101100000100100011010001010110#32 = .ok (.setpix 12 0x12 0x34 0x56) := by decide
/-- V-D11: `100` and 29 zeros. -/
theorem test_decode_write : decode 0b10000000000000000000000000000000#32 = .ok .write := by decide
/-- V-M1, `MAP 1, 4`: `101`, 23 zeros, `Y = 100`, `X = 001`. -/
theorem test_decode_map : decode 0b10100000000000000000000000100001#32 = .ok (.map 1 4) := by decide
/-- `RDPIX 24` of V-B3: `110 11000` and 24 zeros. -/
theorem test_decode_rdpix : decode 0b11011000000000000000000000000000#32 = .ok (.rdpix 24) := by decide
/-- V-D17: `111` and 29 zeros. -/
theorem test_decode_rdstat : decode 0b11100000000000000000000000000000#32 = .ok .rdstat := by decide

/-- V-D1, V-D2, V-D4, V-D5, V-D8, V-D12, V-D14, V-D16, V-D18: illegal, each by its name. -/
theorem test_decode_illegal :
    decode 0x00000000#32 = .error .opcodeZero ∧ decode 0x1FFFFFFF#32 = .error .opcodeZero
    ∧ decode 0x30000719#32 = .error (.mustBeZero "INIT") ∧ decode 0x20010000#32 = .error (.mustBeZero "INIT")
    ∧ decode 0x50000000#32 = .error (.mustBeZero "CLEAR") ∧ decode 0x90000000#32 = .error (.mustBeZero "WRITE")
    ∧ decode 0xA0000040#32 = .error (.mustBeZero "MAP") ∧ decode 0xC0800000#32 = .error (.mustBeZero "RDPIX")
    ∧ decode 0xFFFFFFFF#32 = .error (.mustBeZero "RDSTAT") := by decide

/-- V-D6, V-D9, V-D13, V-D15: values outside the domains decode normally (R56). -/
theorem test_decode_out_of_domain :
    decode 0x2000FFFF#32 = .ok (.init 255 255) ∧ decode 0x7FFFFFFF#32 = .ok (.setpix 31 255 255 255)
    ∧ decode 0xA000003F#32 = .ok (.map 7 7) ∧ decode 0xDF000000#32 = .ok (.rdpix 31) := by decide

/-- The words of 95_test_vectors.md, encoded. -/
theorem test_encode :
    encode (.init 7 25) = 0x20000719 ∧ encode .clear = 0x40000000 ∧ encode (.setpix 24 0x10 0x20 0x30) = 0x78102030
    ∧ encode .write = 0x80000000 ∧ encode (.map 0 1) = 0xA0000008 ∧ encode (.rdpix 24) = 0xD8000000
    ∧ encode .rdstat = 0xE0000000 := by decide

/-- "The seven match/mask pairs are disjoint" (R57): two rows differ in a bit both masks fix. -/
theorem test_rows_disjoint :
    opcodeMap.Pairwise (fun a b => (a.pattern ^^^ b.pattern) &&& a.mask &&& b.mask ≠ 0) := by decide

theorem test_table_word :
    decodeTableWord 32 0x78102030 = some (.setpix 24 0x10 0x20 0x30) ∧ decodeTableWord 32 0 = none := by decide

/-! ### the textual form (R62, R63) -/

theorem test_read_line :
    readLine "  SETPIX 24, 0x10, 0x20, 48 ; red" = some (.setpix 24 16 32 48)
    ∧ readLine "RDSTAT" = some .rdstat ∧ readLine "MAP 1" = none := by decide

/-- Program P2: `SETXY 4, 1, 0x40, 0x40, 0` assembles to `0x73404000`. -/
theorem test_setxy : (assemble (.setxy 4 1 0x40 0x40 0)).map encode = some 0x73404000#32 := by decide

/-! ### one step per command, from the vectors -/

/-- V-I1. -/
theorem test_init :
    after (fun s => (s.mode, s.ledcnt, s.pinsel, s.doutOe, words s)) (step (offering 0x20000719 true State.reset))
      = some (.ready, 25, 7, true, [0]) := by decide

/-- V-I6, V-F7. -/
theorem test_init_no_resource :
    after (fun s => (s.mode, s.ledcnt, s.pinsel, s.doutOe, words s)) (step (offering 0x20000719 false State.reset))
      = some (.fatal, 0, 0, false, [0x60000000]) := by decide

/-- V-F2: the operand check comes before the resource check; V-F4: decode comes first. -/
theorem test_fault_priority :
    after (fun s => (s.mode, words s)) (step (offering 0x20000700 false State.reset)) = some (.uninit, [0x50000000])
    ∧ after words (step (offering 0x30000700 false State.reset)) = some [0x10000000]
    ∧ after words (step (offering 0x7F000000 true State.reset)) = some [0x20000000]
    ∧ after words (step (offering 0x20000700 false (up 25))) = some [0x20000000] := by decide

/-- V-T2. -/
theorem test_rdstat : after words (step (offering 0xE0000000 true (up 25))) = some [0x00010719] := by decide

/-- V-B12 on one pixel below and one at `LEDCNT`. -/
theorem test_clear :
    after (fun s => (s.pixel? 1, s.pixel? 2, words s)) (step (offering 0x40000000 true (up 2)))
      = some (some 0, some 0x102030, [0]) := by decide

/-- V-B19: `index = LEDCNT - 1`, the neighbour untouched. -/
theorem test_setpix :
    after (fun s => (s.pixel? 1, s.pixel? 0, words s)) (step (offering 0x61010203 true (up 2)))
      = some (some 0x010203, some 0x102030, [0]) := by decide

/-- V-B18: `index = LEDCNT`. -/
theorem test_setpix_range :
    after (fun s => (s.pixel? 2, words s)) (step (offering 0x62010101 true (up 2)))
      = some (some 0x102030, [0x30000000]) := by decide

/-- V-B3. -/
theorem test_rdpix : after words (step (offering 0xD8000000 true (up 25))) = some [0x00102030] := by decide

/-- V-M1 `MAP 0, 1`, in UNINIT; V-M2. -/
theorem test_map :
    after words (step (offering 0xA0000008 true State.reset)) = some [0x0000000F]
    ∧ after words (step (offering 0xA0000005 true State.reset)) = some [0x40000000] := by decide

/-- The table of R96, row by row. -/
theorem test_map_table :
    (List.range 5).map (fun y => (List.range 5).map (fun x => mapIndex x y))
      = [[24, 23, 22, 21, 20], [15, 16, 17, 18, 19], [14, 13, 12, 11, 10], [5, 6, 7, 8, 9], [4, 3, 2, 1, 0]] := by decide

/-- V-W4, rows `a` and `a+1`: WRITE's accepting tick is still idle low. -/
theorem test_write :
    after (fun s => (s.phase, s.pc, s.wire, words s)) (step (offering 0x80000000 true (up 2)))
      = some (.shift, ⟨0, .green, 7, 0⟩, [.low], []) := by decide

/-- V-W4: rows `a+10`, `a+80`, `a+240`, each to the row after it. -/
theorem test_cursor_rows :
    after (·.pc) (step (shifting 2 ⟨0, .green, 7, 9⟩)) = some ⟨0, .green, 6, 0⟩
    ∧ after (·.pc) (step (shifting 2 ⟨0, .green, 0, 9⟩)) = some ⟨0, .red, 7, 0⟩
    ∧ after (·.pc) (step (shifting 2 ⟨0, .blue, 0, 9⟩)) = some ⟨1, .green, 7, 0⟩ := by decide

/-- V-W4: rows `a+480`, `a+1280`. -/
theorem test_frame_end :
    after (fun s => (s.phase, s.pc, s.gapcnt)) (step (shifting 2 ⟨1, .blue, 0, 9⟩)) = some (.gap, Cursor.idle, 0)
    ∧ after (fun s => (s.phase, s.gapcnt, words s)) (step (gapping 799)) = some (.idle, 0, [0]) := by decide

/-- V-W1: the two cells. -/
theorem test_cells :
    cell Config.hw false = [.high, .high, .low, .low, .low, .low, .low, .low, .low, .low]
    ∧ cell Config.hw true = [.high, .high, .high, .high, .high, .high, .high, .low, .low, .low] := by decide

/-- V-W2, the row of `0x102030`: wire bytes `20 10 30` and their 24 bits. -/
theorem test_wire_order :
    pixelBytes 0x102030 = [0x20, 0x10, 0x30]
    ∧ (pixelBytes 0x102030).flatMap byteBits
      = [false, false, true, false, false, false, false, false, false, false, false, true, false, false, false, false,
         false, false, true, true, false, false, false, false] := by decide

/-- The level inside a cell: `G(x[0])[5] = 1` of `0x102030` is high to tick 6 and low at tick 7. -/
theorem test_level :
    (shifting 2 ⟨0, .green, 5, 6⟩).level = .high ∧ (shifting 2 ⟨0, .green, 5, 7⟩).level = .low
    ∧ (shifting 2 ⟨0, .green, 6, 1⟩).level = .high ∧ (shifting 2 ⟨0, .green, 6, 2⟩).level = .low := by decide

/-- V-W5e: a word offered in mid-frame is not accepted and stays with the host. -/
theorem test_busy_holds_off :
    after (fun s => (s.phase, words s, s.host)) (step (offering 0x40000000 true (shifting 2 ⟨0, .green, 7, 0⟩)))
      = some (.shift, [], [.hold 0x40000000 true]) := by decide

/-- V-T6, P7: nothing is accepted in FATAL, `Z` on the line, `FATAL_OUT = 1`. -/
theorem test_fatal :
    after (fun s => (s.mode, s.wire, words s, s.fatalOut)) (step (offering 0xE0000000 true dead))
      = some (.fatal, [.z], [], true) := by decide

/-- R118: reset in mid-frame. -/
theorem test_reset_cuts_frame :
    after (fun s => (s.mode, s.phase, s.pc, s.wire, words s)) (step (underReset (shifting 2 ⟨0, .red, 3, 4⟩)))
      = some (.uninit, .idle, Cursor.idle, [.z], []) := by decide

/-- R30: "Derived outputs right after reset". -/
theorem test_reset_outputs : State.reset.outputs = ⟨true, false, 0, false, false, false, false⟩ := by decide

/-- R129: over once the WRITE is answered and `PHASE = IDLE`, and not for a program with one command more. -/
theorem test_run_over :
    (up 25).runOver [] = true ∧ dead.runOver [] = false ∧ writing.runOver [0x80000000] = false
    ∧ after (fun s => (s.runOver [0x80000000], s.runOver [0x80000000, 0x80000000])) (step writing)
      = some (true, false) := by decide

/-- R129 with R118 and R104: not over after a reset that cut the WRITE, nor after a reset out of FATAL. -/
theorem test_run_never_over :
    after (fun s => (s.phase, s.runOver [0x80000000])) (step (underReset writing)) = some (.idle, false)
    ∧ after (fun s => (s.mode, s.runOver [0x20000719]))
        (ticks 2 { State.reset with host := [.hold 0x20000719 false, .pins ⟨true, false, 0, false⟩] })
      = some (.uninit, false) := by decide

/-- R8, R9: under `small` the capacity is 1, a cell ends at tick 2, and a 1 bit (`G[5]` of `0x102030`) is high to tick 1. -/
theorem test_other_configuration :
    small.legal = true ∧ small.bitRateKept = true
    ∧ after words (step (offering 0x20000702 true (State.resetAt small 0))) = some [0x50000000]
    ∧ after (·.ledcnt) (step (offering 0x20000701 true (State.resetAt small 0))) = some 1
    ∧ after (·.pc) (step (smallShifting ⟨0, .green, 5, 2⟩)) = some ⟨0, .green, 4, 0⟩
    ∧ (smallShifting ⟨0, .green, 5, 1⟩).level = .high ∧ (smallShifting ⟨0, .green, 5, 2⟩).level = .low := by decide

/-! ### `withFetchWord`: every row of the table runs as the first command after reset -/

theorem test_first_step_runs_every_row :
    [0x20000001, 0x40000000, 0x60000000, 0x80000000, 0xA0000000, 0xC0000000, 0xE0000000].all
      (fun w => (after (fun s => s.rsps.length) (step (State.reset.withFetchWord 32 w))) == some 1) = true := by decide

/-! ### witnesses: for every statement with hypotheses, what meets them (boundary values where clauses meet) -/

/-- V-I1's INIT on the port. -/
def legalInit : State := offering 0x20000719 true State.reset

theorem legal_init_offered : legalInit.Inv := by decide
theorem legal_up_1 : (up 1).Inv := by decide
theorem legal_up_25 : (up 25).Inv := by decide
theorem legal_first_cell : (shifting 1 ⟨0, .green, 7, 0⟩).Inv := by decide
theorem legal_last_tick : (shifting 25 ⟨24, .blue, 0, 9⟩).Inv := by decide
theorem legal_last_tick_of_2 : (shifting 2 ⟨1, .blue, 0, 9⟩).Inv := by decide
theorem legal_gap_0 : (gapping 0).Inv := by decide
theorem legal_gap_798 : (gapping 798).Inv := by decide
theorem legal_gap_799 : (gapping 799).Inv := by decide
theorem legal_dead : dead.Inv := by decide

/-- What is on the ports is no matter of legality. -/
theorem legal_offering {w : Word} {tg : Bool} {s : State} (h : s.Inv) : (offering w tg s).Inv := h
theorem legal_underReset {s : State} (h : s.Inv) : (underReset s).Inv := h

theorem witness_EncodeDecodeRoundTrip : decode 0x7FFFFFFF#32 = .ok (.setpix 31 255 255 255) := by decide

theorem witness_FormatsCutOutTheFields :
    ((0x2000FFFF#32).extractLsb' 29 3 = 0b001#3 ∧ (0x2000FFFF#32).extractLsb' 16 13 = 0#13)
    ∧ ((0x40000000#32).extractLsb' 29 3 = 0b010#3 ∧ (0x40000000#32).extractLsb' 0 29 = 0#29)
    ∧ ((0x80000000#32).extractLsb' 29 3 = 0b100#3 ∧ (0x80000000#32).extractLsb' 0 29 = 0#29)
    ∧ ((0xE0000000#32).extractLsb' 29 3 = 0b111#3 ∧ (0xE0000000#32).extractLsb' 0 29 = 0#29)
    ∧ (0x7FFFFFFF#32).extractLsb' 29 3 = 0b011#3
    ∧ ((0xDF000000#32).extractLsb' 29 3 = 0b110#3 ∧ (0xDF000000#32).extractLsb' 0 24 = 0#24)
    ∧ ((0xA000003F#32).extractLsb' 29 3 = 0b101#3 ∧ (0xA000003F#32).extractLsb' 6 23 = 0#23) := by decide

theorem witness_IllegalWordsAreAnsweredIllegal :
    (offering 0x00000000 true State.reset).accepts = true ∧ (offering 0x80000001 true (up 1)).accepts = true
    ∧ decode 0x00000000#32 = .error .opcodeZero ∧ decode 0x80000001#32 = .error (.mustBeZero "WRITE")
    ∧ decode 0xA0000040#32 = .error (.mustBeZero "MAP") ∧ decode 0xC1000001#32 = .error (.mustBeZero "RDPIX")
    ∧ decode 0x20010719#32 = .error (.mustBeZero "INIT") := by decide

theorem witness_StepRunsDecodedCommand :
    (offering 0x80000000 true (up 1)).accepts = true
    ∧ decode (offering 0x80000000 true (up 1)).port.cmdWord = .ok .write := by decide

theorem witness_PlacedTableWordRuns :
    State.reset.mode ≠ .fatal ∧ State.reset.phase = .idle ∧ decodeTableWord 32 0x20000719 = some (.init 7 25) := by decide

theorem witness_CommandsPermittedPerMode :
    dead.mode = .fatal ∧ (gapping 0).phase ≠ .idle ∧ (underReset (up 1)).cmdReady = false
    ∧ State.reset.cmdReady = true ∧ permitted .write State.reset.mode = false
    ∧ (up 1).cmdReady = true ∧ permitted (.init 0 1) (up 1).mode = false ∧ permitted .write (up 1).mode = true
    ∧ decode 0x1FFFFFFF#32 = .error .opcodeZero := by decide

theorem witness_InitBringsTheBlockUp :
    (offering 0 true State.reset).cmdReady = true ∧ (offering 0 true State.reset).mode = .uninit
    ∧ 1 ≤ (1#8).toNat ∧ (25#8).toNat ≤ (offering 0 true State.reset).cfg.nMax
    ∧ (offering 0 true State.reset).port.tgAvail = true := by decide

theorem witness_BadCountIsConfigError :
    (offering 0 true State.reset).cmdReady = true ∧ (offering 0 true State.reset).mode = .uninit
    ∧ (0#8).toNat = 0 ∧ State.reset.cfg.nMax < (26#8).toNat ∧ 1 ≤ (25#8).toNat ∧ (25#8).toNat ≤ State.reset.cfg.nMax
    ∧ (offering 0 true State.reset).port.tgAvail = true := by decide

theorem witness_NoTimingResourceIsFatal :
    ((offering 0 false State.reset).cmdReady = true ∧ (offering 0 false State.reset).mode = .uninit
      ∧ 1 ≤ (1#8).toNat ∧ (25#8).toNat ≤ State.reset.cfg.nMax ∧ (offering 0 false State.reset).port.tgAvail = false)
    ∧ (offering 0xE0000000 true dead).Inv ∧ (offering 0xE0000000 true dead).mode = .fatal
    ∧ (offering 0xE0000000 true dead).noReset
    ∧ after (fun t => decide (t.mode ≠ .fatal)) (step (underReset dead)) = some true :=
  ⟨by decide, legal_offering legal_dead, rfl, by decide, by decide⟩

theorem witness_ConfigurationIsConstantInReady :
    (up 25).cmdReady = true ∧ (up 25).mode = .ready ∧ (up 25).port.rst = false
    ∧ after (·.mode) (step (offering 0x20000301 true (up 25))) = some .ready := by decide

theorem witness_RdstatReturnsTheStatusView : State.reset.cmdReady = true ∧ (up 25).cmdReady = true := by decide

theorem witness_ClearZeroesTheBuffer :
    (up 25).cmdReady = true ∧ (up 25).mode = .ready ∧ (up 25).ledcnt.toNat ≤ (up 25).pixels.length ∧ (up 1).ledcnt.toNat ≤ (up 25).pixels.length := by decide

theorem witness_SetpixAndRdpix :
    (up 25).cmdReady = true ∧ (up 25).mode = .ready ∧ (up 25).ledcnt.toNat ≤ (up 25).pixels.length
    ∧ (24#5).toNat < (up 25).ledcnt.toNat ∧ (0#5).toNat < (up 1).ledcnt.toNat := by decide

theorem witness_IndexOutOfRangeFaults :
    (up 25).cmdReady = true ∧ (up 25).mode = .ready
    ∧ (up 25).ledcnt.toNat ≤ (25#5).toNat ∧ (up 25).ledcnt.toNat ≤ (31#5).toNat := by decide

theorem witness_StoreLoadLaws :
    (up 25).cmdReady = true ∧ (up 25).mode = .ready ∧ (up 25).ledcnt.toNat ≤ (up 25).pixels.length ∧ (24#5).toNat < (up 25).ledcnt.toNat
    ∧ (3#5) ≠ (24#5) ∧ after words (exec (.rdpix 3) (up 25)) = some [0x00102030]
    ∧ after (fun t => decide (t.rspsRev = [⟨0, .fault (.indexRange 31)⟩])) (exec (.rdpix 31) (up 25)) = some true
    ∧ after words (exec .write (up 25)) = some []
    ∧ (gapping 799).phase ≠ .idle ∧ (gapping 799).port.rst = false ∧ after (·.phase) (step (gapping 799)) = some .idle := by
  decide

theorem witness_MemReadWriteLaws :
    (up 25).ledcnt.toNat < (24#5).toNat + 2 ∧ (24#5).toNat + 1 ≤ (up 25).ledcnt.toNat
    ∧ memRead 24 2 (up 25) = .error (.indexRange 24) ∧ memRead 24 1 (up 25) = .ok [0x102030] := by decide

theorem witness_Map :
    State.reset.cmdReady = true ∧ (4#3).toNat ≤ 4 ∧ (0#3).toNat ≤ 4 ∧ 4 < (5#3).toNat ∧ 4 < (7#3).toNat := by decide

theorem witness_WriteStartsTheFrame : (up 1).cmdReady = true ∧ (up 1).mode = .ready := by decide

theorem witness_ShiftTicks :
    (shifting 1 ⟨0, .green, 7, 0⟩).Inv ∧ (shifting 25 ⟨24, .blue, 0, 9⟩).Inv ∧ (shifting 2 ⟨1, .blue, 0, 9⟩).Inv
    ∧ ((shifting 2 ⟨1, .blue, 0, 9⟩).port.rst = false ∧ (shifting 2 ⟨1, .blue, 0, 9⟩).phase = .shift
      ∧ (shifting 2 ⟨1, .blue, 0, 9⟩).pc.place Config.hw + 1 = 24 * (shifting 2 ⟨1, .blue, 0, 9⟩).ledcnt.toNat * 10
      ∧ (shifting 2 ⟨1, .blue, 0, 8⟩).pc.place Config.hw + 1 < 24 * (shifting 2 ⟨1, .blue, 0, 8⟩).ledcnt.toNat * 10)
    ∧ (up 1).Inv ∧ (up 1).phase ≠ .shift ∧ (up 1).doutOe = true :=
  ⟨legal_first_cell, legal_last_tick, legal_last_tick_of_2, by decide, legal_up_1, by decide, rfl⟩

theorem witness_ShiftPutsTheFrameOnTheWire :
    (shifting 1 ⟨0, .green, 7, 0⟩).Inv ∧ (shifting 1 ⟨0, .green, 7, 0⟩).noReset
    ∧ (shifting 1 ⟨0, .green, 7, 0⟩).phase = .shift :=
  ⟨legal_first_cell, by decide, rfl⟩

theorem witness_GapLastsResetTicks :
    (gapping 0).Inv ∧ (gapping 0).noReset ∧ (gapping 0).phase = .gap ∧ (gapping 0).gapcnt = 0 :=
  ⟨legal_gap_0, by decide, rfl, rfl⟩

theorem witness_FrameLaw :
    (offering 0x80000000 true (up 25)).Inv ∧ (offering 0x80000000 true (up 1)).Inv
    ∧ (offering 0x80000000 true (up 25)).noReset
    ∧ (offering 0x80000000 true (up 25)).mode = .ready ∧ (offering 0x80000000 true (up 25)).phase = .idle
    ∧ (offering 0x80000000 true (up 25)).port.cmdValid = true
    ∧ (offering 0x80000000 true (up 25)).port.cmdWord = 0x80000000#32 :=
  ⟨legal_offering legal_up_25, legal_offering legal_up_1, by decide, rfl, rfl, rfl, rfl⟩

theorem witness_FrameContent : (up 25).ledcnt.toNat ≤ (up 25).pixels.length ∧ 24 < (up 25).ledcnt.toNat ∧ 7 < 8 := by decide

theorem witness_FrameSymbols :
    Config.hw.legal = true ∧ Config.hw.bitRateKept = true ∧ [true] ≠ ([] : List Bool) := by decide

theorem witness_FrameRunLengths :
    Config.hw.legal = true ∧ Config.hw.bitRateKept = true ∧ (Level.low, 3) ∈ levelRuns (cells Config.hw [false, true]) := by
  decide

theorem witness_TransitionTable :
    (offering 0x20000719 true State.reset).Inv ∧ (underReset (gapping 0)).Inv
    ∧ (underReset (gapping 0)).port.rst = true ∧ (offering 0x80000000 true (up 25)).Inv ∧ (gapping 798).Inv
    ∧ (gapping 799).Inv ∧ (shifting 1 ⟨0, .green, 7, 0⟩).Inv ∧ (shifting 25 ⟨24, .blue, 0, 9⟩).Inv ∧ dead.Inv :=
  ⟨legal_init_offered, legal_underReset legal_gap_0, rfl, legal_offering legal_up_25,
    legal_gap_798, legal_gap_799, legal_first_cell, legal_last_tick, legal_dead⟩

theorem witness_IdleTickRecordsTheIdleLevel :
    (up 1).phase = .idle ∧ (up 1).port.rst = false ∧ (up 1).accepts = false
    ∧ State.reset.phase = .idle ∧ State.reset.accepts = false ∧ State.reset.doutOe = false := by decide

theorem witness_EveryTickAppendsOneLevel :
    after (·.wire) (step (underReset (up 1))) = some [.z] ∧ after (·.wire) (step (up 1)) = some [.low]
    ∧ after (·.wire) (step State.reset) = some [.z]
    ∧ after (·.wire) (step (shifting 1 ⟨0, .green, 7, 0⟩)) = some [.high] := by decide

theorem witness_ResponsePortTiming :
    (underReset (up 1)).Inv ∧ (offering 0x80000000 true (up 1)).Inv ∧ (shifting 1 ⟨0, .green, 7, 0⟩).Inv
    ∧ (gapping 799).Inv ∧ (gapping 798).Inv
    ∧ ((offering 0xE0000000 true (up 1)).outputs.rspValid = true
      ∧ (offering 0x80000000 true (up 1)).outputs.rspValid = false
      ∧ (gapping 799).outputs.rspValid = true ∧ (gapping 798).outputs.rspValid = false) :=
  ⟨legal_underReset legal_up_1, legal_offering legal_up_1, legal_first_cell, legal_gap_799, legal_gap_798, by decide⟩

theorem witness_BusyBlockIgnoresTheHost :
    (gapping 799).phase ≠ .idle ∧ (gapping 799).port.rst = false
    ∧ (offering 0x80000000 true (gapping 799)).port.rst = false
    ∧ (after (·.phase) (step (gapping 799))) = some .idle := by decide

/-- The clause about a stop: a cursor beyond the buffer, in no legal state. -/
theorem witness_BusyBlockIgnoresTheHost_stop :
    (after (·.phase) (step (shifting 2 ⟨25, .green, 7, 0⟩))) = none ∧ ¬ (shifting 2 ⟨25, .green, 7, 0⟩).Inv := by decide

theorem witness_ResetTick :
    (underReset (shifting 1 ⟨0, .green, 7, 0⟩)).port.rst = true ∧ dead.port.rst = false ∧ (up 1).mode ≠ .uninit
    ∧ after (·.mode) (step dead) = some .fatal := by decide

theorem witness_ReadOnlyCommandsFrame :
    ∃ t t' t'', exec (.map 4 4) (up 1) = .next t ∧ exec (.rdpix 0) (up 1) = .next t' ∧ exec .rdstat (up 1) = .next t'' :=
  ⟨_, _, _, rfl, rfl, rfl⟩

theorem witness_BufferCommandsFrame :
    ∃ t t', exec (.setpix 24 1 2 3) (up 25) = .next t ∧ exec .clear (up 24) = .next t' ∧ (up 24).ledcnt.toNat ≤ 24
      ∧ 23 ≠ (24#5).toNat :=
  ⟨_, _, rfl, rfl, by decide, by decide⟩

theorem witness_InitFrame :
    ∃ t t', exec (.init 7 25) (offering 0 true State.reset) = .next t
      ∧ exec (.init 7 25) (offering 0 false State.reset) = .next t' :=
  ⟨_, _, rfl, rfl⟩

theorem witness_WriteFrame : ∃ t t', exec .write (up 1) = .next t ∧ exec .write State.reset = .next t' :=
  ⟨_, _, rfl, rfl⟩

theorem witness_FaultsWriteNoState :
    (∃ t, exec .clear State.reset = .next t ∧ t.rspsRev = ⟨0, .fault (.stateError .uninit)⟩ :: State.reset.rspsRev)
    ∧ ∃ t, exec (.init 7 25) (offering 0 false State.reset) = .next t
        ∧ t.rspsRev = ⟨0, .fault .noTimingResource⟩ :: State.reset.rspsRev :=
  ⟨⟨_, rfl, rfl⟩, ⟨_, rfl, rfl⟩⟩

theorem witness_OnlySetpixClearAndResetChangePixels :
    after (fun t => decide (t.pixel? 0 ≠ (up 1).pixel? 0)) (step (offering 0x60010203 true (up 1))) = some true
    ∧ after (fun t => decide (t.pixel? 0 ≠ (up 1).pixel? 0)) (step (offering 0x40000000 true (up 1))) = some true := by
  decide

theorem witness_EveryTickKeepsLegality : (up 25).Inv ∧ (gapping 799).Inv ∧ (shifting 25 ⟨24, .blue, 0, 9⟩).Inv :=
  ⟨legal_up_25, legal_gap_799, legal_last_tick⟩

/-- An idle block with a frame behind it, and the same when the next frame's first cell is about to start. -/
def afterFrame : State := { up 1 with wireRev := List.replicate 803 .low ++ [.high] }
def beforeCell : State := { shifting 1 ⟨0, .green, 7, 0⟩ with wireRev := List.replicate 804 .low ++ [.high] }

theorem lowTail_replicate {s : State} {n : Nat} (h : s.wireRev = List.replicate n .low ++ [.high]) :
    s.lowTail = n ∧ s.cellBefore = true := by
  constructor
  · rw [State.lowTail, h, List.takeWhile_append_of_pos (by simp)]; simp
  · rw [State.cellBefore, h, List.dropWhile_append_of_pos (by simp)]; simp

theorem gap_afterFrame : afterFrame.GapInv := by
  have h : afterFrame.lowTail = 803 ∧ afterFrame.cellBefore = true := lowTail_replicate rfl
  refine ⟨fun _ _ => ?_, fun hp => absurd hp (by decide), fun hp => absurd hp (by decide), fun hp => absurd hp (by decide)⟩
  rw [h.1]; decide

theorem gap_beforeCell : beforeCell.GapInv := by
  have h : beforeCell.lowTail = 804 ∧ beforeCell.cellBefore = true := lowTail_replicate rfl
  refine ⟨fun hp => absurd hp (by decide), fun _ _ _ => ?_, fun _ p _ => ?_, fun hp => absurd hp (by decide)⟩
  · rw [h.1]; decide
  · rw [show beforeCell.pc.tick.toNat = 0 from rfl]; omega

theorem witness_EveryTickKeepsTheResetGap :
    (afterFrame.Inv ∧ afterFrame.GapInv ∧ ∃ t, step afterFrame = .next t)
    ∧ beforeCell.GapInv ∧ beforeCell.phase = .shift ∧ beforeCell.pc = ⟨0, .green, 7, 0⟩ ∧ beforeCell.cellBefore = true :=
  ⟨⟨legal_up_1, gap_afterFrame, _, rfl⟩, gap_beforeCell, rfl, rfl, (lowTail_replicate rfl).2⟩

theorem witness_ModeChangesOnlyByInitAndReset :
    after (fun t => decide (t.mode ≠ .uninit)) (step (offering 0x20000719 true State.reset)) = some true
    ∧ after (fun t => decide (t.mode ≠ .fatal)) (step (underReset dead)) = some true := by decide

theorem witness_ResetIsLegal : small.legal = true ∧ small.encodable = true := by decide

theorem witness_ConfigurationIsFixed :
    (shifting 2 ⟨0, .green, 7, 0⟩).pixels.length = (shifting 2 ⟨0, .green, 7, 0⟩).cfg.nMax
    ∧ after (fun t => decide (t.cfg = Config.hw)) (step (underReset (up 25))) = some true := by decide

theorem witness_EveryCommandIsAnsweredOnce :
    writing.accepted.length = writing.rsps.length + writing.inFlight + 0
    ∧ (underReset writing).port.rst = true ∧ (underReset writing).phase ≠ .idle
    ∧ after (fun t => (t.accepted.length, t.rsps.length, t.inFlight)) (step (underReset writing)) = some (1, 0, 0)
    ∧ after (·.accepted) (step (offering 0x80000000 true (up 1))) = some [⟨0, 0x80000000⟩] := by decide

theorem witness_EndOfARun :
    (∃ r ∈ ({ dead with rspsRev := [⟨0, .fault .noTimingResource⟩] } : State).rsps, r.answer = .fault .noTimingResource)
    ∧ after (·.mode) (ticks 2 dead) = some .fatal
    ∧ (State.reset.mode ≠ .fatal ∧ after (·.mode) (step (offering 0x20000719 false State.reset)) = some .fatal)
    ∧ ((underReset writing).rsps.length + (underReset writing).inFlight ≤ (underReset writing).accepted.length
      ∧ (underReset writing).phase ≠ .idle ∧ (underReset writing).port.rst = true
      ∧ after (·.phase) (ticks 2 (underReset writing)) = some .idle) := by decide

theorem witness_RunsGetOver :
    (offering 0x80000000 true (up 25)).Inv ∧ (offering 0x80000000 true (up 25)).noReset
    ∧ (offering 0x80000000 true (up 25)).runOver [] = true ∧ (offering 0x80000000 true (up 25)).accepts = true
    ∧ legalInit.Inv ∧ legalInit.runOver [] = true ∧ legalInit.accepts = true :=
  ⟨legal_offering legal_up_25, by decide, by decide, by decide, legal_init_offered, by decide, by decide⟩

end Sys2Proof.Tests
end

section
/-! PROOFS. The state after reset and the status view (10_state.md R20, R25, R30): the status signals as facts, the four
fields of the view, a tick in which nothing happens, then the two statements. -/

namespace Sys2Proof.Machine

/-! ### the gate open, and the status signals -/

theorem ifReady_of_cmdReady {s : State} (h : s.cmdReady = true) (body : Out) : ifReady s body = body := if_pos h

theorem busy_eq_false_iff {s : State} : s.busy = false ↔ s.phase = .idle := by simp [State.busy]

theorem busy_of_cmdReady {s : State} (h : s.cmdReady = true) : s.busy = false :=
  busy_eq_false_iff.mpr (cmdReady_iff.mp h).2.1

theorem dout_of_idle {s : State} (h : s.phase = .idle) : s.dout = false := by simp [State.dout, h]

/-! ### the fields of the status view (R25) -/

@[simp] theorem statusView_ledcnt (s : State) : s.statusView.extractLsb' 0 8 = s.ledcnt :=
  BitVec.extractLsb'_append_eq_right

@[simp] theorem statusView_pinsel (s : State) : s.statusView.extractLsb' 8 8 = s.pinsel := by
  rw [State.statusView, BitVec.extractLsb'_append_eq_of_le (by decide)]
  exact BitVec.extractLsb'_append_eq_right

@[simp] theorem statusView_mode (s : State) : s.statusView.extractLsb' 16 2 = s.mode.bits := by
  rw [State.statusView, BitVec.extractLsb'_append_eq_of_le (by decide),
    BitVec.extractLsb'_append_eq_of_le (by decide)]
  exact BitVec.extractLsb'_append_eq_right

@[simp] theorem statusView_top (s : State) : s.statusView.extractLsb' 18 6 = 0#6 := by
  rw [State.statusView, BitVec.extractLsb'_append_eq_of_le (by decide),
    BitVec.extractLsb'_append_eq_of_le (by decide)]
  exact BitVec.extractLsb'_append_eq_left

/-- RDSTAT in a tick in which the block can accept a command (R67). -/
theorem exec_rdstat_of_cmdReady {s : State} (h : s.cmdReady = true) :
    exec .rdstat s = .next (respond (.ok s.statusView) s) :=
  ifReady_of_cmdReady h _

/-! ### an idle tick with no command -/

/-- With no reset, no command accepted and no frame in flight, only the end of the tick happens (R85). -/
theorem step_of_idle {s : State} (hr : s.port.rst = false) (ha : s.accepts = false) (hp : s.phase = .idle) :
    step s = .next (endTick s s) := by
  rw [step_of_no_command hr ha, serialize, hp]
  rfl

/-- A tick that leaves the list of responses as it was gives no answer. -/
theorem answerNow_of_rspsRev_kept {s t : State} (h : step s = .next t) (hr : t.rspsRev = s.rspsRev) :
    s.answerNow = none := by
  rw [step] at h
  simp [State.answerNow, h, hr]

theorem answerNow_of_idle {s : State} (hr : s.port.rst = false) (ha : s.accepts = false) (hp : s.phase = .idle) :
    s.answerNow = none :=
  answerNow_of_rspsRev_kept (step_of_idle hr ha hp) (endTick_rspsRev s s)

/-! ### the reset state (R30) -/

theorem resetAt_pixel? {p : Params} {k i : Nat} (h : i < p.nMax) :
    (State.resetAt p k).pixel? i = some (Config.resetPixel k i) :=
  resetPixels_getElem? h

/-- R30: "Derived outputs right after reset", under every configuration. -/
theorem resetAt_outputs (p : Params) (k : Nat) :
    (State.resetAt p k).outputs = ⟨true, false, 0, false, false, false, false⟩ := by
  have hn : (State.resetAt p k).answerNow = none := answerNow_of_idle rfl rfl rfl
  have hd : (State.resetAt p k).dout = false := dout_of_idle rfl
  rw [State.outputs, hn, hd]
  rfl

/-- Settles O15: each field of the view RDSTAT answers stands where R25 puts it. -/
theorem rdstatReturnsTheStatusView : Obligations.RdstatReturnsTheStatusView := by
  intro s h
  refine ⟨busy_of_cmdReady h, s.statusView, exec_rdstat_of_cmdReady h, statusView_ledcnt s, statusView_pinsel s,
    statusView_top s, ?_⟩
  rw [statusView_mode]
  cases s.mode <;> rfl

/-- Settles O42: the registers are those `State.resetAt` writes, the outputs those of an idle tick. -/
theorem resetValues : Obligations.ResetValues := by
  have pixels : ∀ i, i < 25 → (State.reset.pixel? i).isSome = true := fun i hi => by
    rw [State.reset, resetAt_pixel? hi]
    rfl
  have outputs : State.reset.outputs = ⟨true, false, 0, false, false, false, false⟩ := resetAt_outputs _ _
  refine ⟨rfl, rfl, rfl, rfl, rfl, rfl, rfl, rfl, pixels, ?_⟩
  simp [outputs]

end Sys2Proof.Machine
end

section
/-! PROOFS. The encoding (30_encoding.md R51 to R60): what it means for a word to match a row of the opcode map, which
command the decoder then reads, which words are illegal, and the response words; then the four statements. -/

namespace Sys2Proof

/-! ### fields of a word, bit by bit -/

theorem getLsbD_fieldAt {k : Nat} (v : BitVec k) (lo : Nat) {i : Nat} (hi : i < Config.cmdBits) :
    (fieldAt v lo).getLsbD i = (decide (lo ≤ i) && v.getLsbD (i - lo)) := by
  have : i - lo < Config.cmdBits := by omega
  rw [fieldAt, BitVec.getLsbD_shiftLeft, BitVec.getLsbD_setWidth]
  simp only [hi, this, decide_true, Bool.true_and, ← decide_not, Nat.not_lt]

/-- The `n` bits of a word from bit `lo` up. -/
def fieldMask (n lo : Nat) : Word := fieldAt (BitVec.allOnes n) lo

theorem getLsbD_fieldMask {n lo i : Nat} (hi : i < Config.cmdBits) :
    (fieldMask n lo).getLsbD i = decide (lo ≤ i ∧ i < lo + n) := by
  rw [fieldMask, getLsbD_fieldAt _ _ hi, BitVec.getLsbD_allOnes, ← Bool.decide_and]
  congr 1
  apply propext
  omega

/-- A word agrees with an opcode and `n` must-be-zero bits under their mask exactly when the two fields have these values. -/
theorem and_fieldMask_eq_iff (w : Word) (op : BitVec 3) {n lo : Nat} (h : lo + n ≤ 29) :
    w &&& (fieldMask 3 29 ||| fieldMask n lo) = fieldAt op 29 ↔ opc w = op ∧ w.extractLsb' lo n = 0#n := by
  have bits : w &&& (fieldMask 3 29 ||| fieldMask n lo) = fieldAt op 29 ↔
      ∀ i < 32, (w.getLsbD i && (decide (29 ≤ i ∧ i < 29 + 3) || decide (lo ≤ i ∧ i < lo + n)))
        = (decide (29 ≤ i) && op.getLsbD (i - 29)) := by
    rw [BitVec.eq_of_getLsbD_eq_iff]
    refine forall₂_congr fun i hi => ?_
    rw [BitVec.getLsbD_and, BitVec.getLsbD_or, getLsbD_fieldMask hi, getLsbD_fieldMask hi, getLsbD_fieldAt _ _ hi]
  rw [bits]
  constructor
  · intro hw
    constructor <;> apply BitVec.eq_of_getLsbD_eq <;> intro j hj
    · simpa [opc, hj, show 29 + j < 32 by omega] using hw (29 + j) (by omega)
    · simpa [hj, show ¬ 29 ≤ lo + j by omega] using hw (lo + j) (by omega)
  · rintro ⟨rfl, hz⟩ i hi
    rcases Nat.lt_or_ge i 29 with hlow | hop
    · have zero : lo ≤ i ∧ i < lo + n → w.getLsbD i = false := fun ⟨h1, h2⟩ => by
        simpa [show i - lo < n by omega, Nat.add_sub_cancel' h1] using congrArg (BitVec.getLsbD · (i - lo)) hz
      by_cases hm : lo ≤ i ∧ i < lo + n
      · simp [zero hm, Nat.not_le.mpr hlow]
      · simp only [hm, Nat.not_le.mpr hlow]; simp
    · simp [opc, hop, hi, show i - 29 < 3 by omega]

/-! ### matching a row of the opcode map, as values of fields (R51 to R57) -/

theorem hits_iff {row : OpRow} {w : Word} : row.hits w = true ↔ w &&& row.mask = row.pattern := beq_iff_eq

/-- A row whose mask takes the opcode and `n` must-be-zero bits from bit `lo` up. -/
theorem hits_iff_fields {row : OpRow} {op : BitVec 3} {n lo : Nat} (h : lo + n ≤ 29)
    (hp : row.pattern = fieldAt op 29) (hm : row.mask = fieldMask 3 29 ||| fieldMask n lo) (w : Word) :
    row.hits w = true ↔ opc w = op ∧ w.extractLsb' lo n = 0#n := by
  rw [hits_iff, hp, hm, and_fieldMask_eq_iff w op h]

theorem rowInit_hits_iff (w : Word) : rowInit.hits w = true ↔ opc w = 1#3 ∧ w.extractLsb' 16 13 = 0#13 :=
  hits_iff_fields (by decide) (by decide) (by decide) w

theorem rowClear_hits_iff (w : Word) : rowClear.hits w = true ↔ opc w = 2#3 ∧ w.extractLsb' 0 29 = 0#29 :=
  hits_iff_fields (by decide) (by decide) (by decide) w

/-- Format P has no must-be-zero bits (R53). -/
theorem rowSetpix_hits_iff (w : Word) : rowSetpix.hits w = true ↔ opc w = 3#3 := by
  rw [hits_iff_fields (op := 3) (n := 0) (lo := 0) (by decide) (by decide) (by decide) w]
  exact and_iff_left (BitVec.of_length_zero ..)

theorem rowWrite_hits_iff (w : Word) : rowWrite.hits w = true ↔ opc w = 4#3 ∧ w.extractLsb' 0 29 = 0#29 :=
  hits_iff_fields (by decide) (by decide) (by decide) w

theorem rowMap_hits_iff (w : Word) : rowMap.hits w = true ↔ opc w = 5#3 ∧ w.extractLsb' 6 23 = 0#23 :=
  hits_iff_fields (by decide) (by decide) (by decide) w

theorem rowRdpix_hits_iff (w : Word) : rowRdpix.hits w = true ↔ opc w = 6#3 ∧ w.extractLsb' 0 24 = 0#24 :=
  hits_iff_fields (by decide) (by decide) (by decide) w

theorem rowRdstat_hits_iff (w : Word) : rowRdstat.hits w = true ↔ opc w = 7#3 ∧ w.extractLsb' 0 29 = 0#29 :=
  hits_iff_fields (by decide) (by decide) (by decide) w

/-- A word that matches a row has that row's opcode. -/
theorem opc_eq_of_hits {row : OpRow} (hrow : row ∈ opcodeMap) {w : Word} (h : row.hits w = true) :
    opc w = opc row.pattern := by
  have opcodeMasked : ∀ row ∈ opcodeMap, opc row.mask = BitVec.allOnes 3 := by decide
  have andOpc : ∀ v : Word, opc (w &&& v) = opc w &&& opc v := fun v => BitVec.extractLsb'_and
  rw [← hits_iff.mp h, andOpc, opcodeMasked row hrow, BitVec.and_allOnes]

/-- At most one row matches a word: the rows' opcodes are distinct (R57). -/
theorem hits_unique {r r' : OpRow} (hr : r ∈ opcodeMap) (hr' : r' ∈ opcodeMap) {w : Word}
    (h : r.hits w = true) (h' : r'.hits w = true) : r = r' := by
  have opcodesDistinct : ∀ r ∈ opcodeMap, ∀ r' ∈ opcodeMap, opc r.pattern = opc r'.pattern → r = r' := by decide
  exact opcodesDistinct r hr r' hr' ((opc_eq_of_hits hr h).symm.trans (opc_eq_of_hits hr' h'))

/-! ### the decoder, row by row -/

theorem rowOf_mem (i : Instr) : rowOf i ∈ opcodeMap := by
  cases i <;> simp [rowOf, opcodeMap]

/-- A word that decodes matches the row of its command. -/
theorem hits_of_decode {w : Word} {i : Instr} (h : decode w = .ok i) : (rowOf i).hits w = true := by
  unfold decode at h
  repeat' split at h
  all_goals cases h
  all_goals assumption

theorem decode_of_rowInit_hits {w : Word} (h : rowInit.hits w = true) :
    decode w = .ok (.init (w.extractLsb' 8 8) (w.extractLsb' 0 8)) := if_pos h

theorem decode_of_rowClear_hits {w : Word} (h : rowClear.hits w = true) : decode w = .ok .clear := by
  have hop := ((rowClear_hits_iff w).mp h).1
  simp [decode, h, rowInit_hits_iff, hop]

theorem decode_of_rowSetpix_hits {w : Word} (h : rowSetpix.hits w = true) :
    decode w
      = .ok (.setpix (w.extractLsb' 24 5) (w.extractLsb' 16 8) (w.extractLsb' 8 8) (w.extractLsb' 0 8)) := by
  have hop := (rowSetpix_hits_iff w).mp h
  simp [decode, h, rowInit_hits_iff, rowClear_hits_iff, hop]

theorem decode_of_rowWrite_hits {w : Word} (h : rowWrite.hits w = true) : decode w = .ok .write := by
  have hop := ((rowWrite_hits_iff w).mp h).1
  simp [decode, h, rowInit_hits_iff, rowClear_hits_iff, rowSetpix_hits_iff, hop]

theorem decode_of_rowMap_hits {w : Word} (h : rowMap.hits w = true) :
    decode w = .ok (.map (w.extractLsb' 0 3) (w.extractLsb' 3 3)) := by
  have hop := ((rowMap_hits_iff w).mp h).1
  simp [decode, h, rowInit_hits_iff, rowClear_hits_iff, rowSetpix_hits_iff, rowWrite_hits_iff, hop]

theorem decode_of_rowRdpix_hits {w : Word} (h : rowRdpix.hits w = true) :
    decode w = .ok (.rdpix (w.extractLsb' 24 5)) := by
  have hop := ((rowRdpix_hits_iff w).mp h).1
  simp [decode, h, rowInit_hits_iff, rowClear_hits_iff, rowSetpix_hits_iff, rowWrite_hits_iff, rowMap_hits_iff, hop]

theorem decode_of_rowRdstat_hits {w : Word} (h : rowRdstat.hits w = true) : decode w = .ok .rdstat := by
  have hop := ((rowRdstat_hits_iff w).mp h).1
  simp [decode, h, rowInit_hits_iff, rowClear_hits_iff, rowSetpix_hits_iff, rowWrite_hits_iff, rowMap_hits_iff,
    rowRdpix_hits_iff, hop]

theorem exists_decode_of_hits {row : OpRow} (hrow : row ∈ opcodeMap) {w : Word} (h : row.hits w = true) :
    ∃ i, decode w = .ok i := by
  simp only [opcodeMap, List.mem_cons, List.not_mem_nil, or_false] at hrow
  rcases hrow with rfl | rfl | rfl | rfl | rfl | rfl | rfl
  · exact ⟨_, decode_of_rowInit_hits h⟩
  · exact ⟨_, decode_of_rowClear_hits h⟩
  · exact ⟨_, decode_of_rowSetpix_hits h⟩
  · exact ⟨_, decode_of_rowWrite_hits h⟩
  · exact ⟨_, decode_of_rowMap_hits h⟩
  · exact ⟨_, decode_of_rowRdpix_hits h⟩
  · exact ⟨_, decode_of_rowRdstat_hits h⟩

/-- The decoder reads a command exactly when some row matches. -/
theorem exists_decode_iff (w : Word) : (∃ i, decode w = .ok i) ↔ ∃ row ∈ opcodeMap, row.hits w = true :=
  ⟨fun ⟨i, h⟩ => ⟨rowOf i, rowOf_mem i, hits_of_decode h⟩, fun ⟨_, hrow, h⟩ => exists_decode_of_hits hrow h⟩

theorem not_illegal_iff (w : Word) : (¬ ∃ e, decode w = .error e) ↔ ∃ i, decode w = .ok i := by
  cases decode w <;> simp

/-- A word is illegal exactly when its opcode is 0 or a must-be-zero bit of its command is set (R60). -/
theorem illegal_iff (w : Word) :
    (∃ e, decode w = .error e) ↔
      opc w = 0#3 ∨ (opc w = 1#3 ∧ w.extractLsb' 16 13 ≠ 0#13)
      ∨ ((opc w = 2#3 ∨ opc w = 4#3 ∨ opc w = 7#3) ∧ w.extractLsb' 0 29 ≠ 0#29)
      ∨ (opc w = 6#3 ∧ w.extractLsb' 0 24 ≠ 0#24) ∨ (opc w = 5#3 ∧ w.extractLsb' 6 23 ≠ 0#23) := by
  rw [← not_iff_not, not_illegal_iff, exists_decode_iff]
  simp only [opcodeMap, List.exists_mem_cons_iff, List.not_mem_nil, false_and, exists_false, or_false, rowInit_hits_iff,
    rowClear_hits_iff, rowSetpix_hits_iff, rowWrite_hits_iff, rowMap_hits_iff, rowRdpix_hits_iff, rowRdstat_hits_iff]
  have eightOpcodes : ∀ op : BitVec 3,
      op = 0#3 ∨ op = 1#3 ∨ op = 2#3 ∨ op = 3#3 ∨ op = 4#3 ∨ op = 5#3 ∨ op = 6#3 ∨ op = 7#3 := by decide
  rcases eightOpcodes (opc w) with h | h | h | h | h | h | h | h <;> simp [h]

end Sys2Proof

namespace Sys2Proof.Machine

/-! ### an illegal word, accepted (R60) -/

/-- A fault that leaves the mode only answers (R107). -/
theorem takeFault_eq_respond {f : CmdFault} {s : State} (h : f.modeAfter s.mode = s.mode) :
    takeFault f s = respond (.fault f) s := by
  rw [takeFault, h]

theorem command_of_illegal {w : Word} {s : State} (hready : s.cmdReady = true) (hw : ∃ e, decode w = .error e) :
    command w s = .next (respond (.fault (.illegalCommand w)) s) := by
  obtain ⟨e, he⟩ := hw
  rw [command, he]
  simp only [ifReady_of_cmdReady hready, raise, takeFault_eq_respond (modeAfter_illegalCommand w s.mode)]

theorem step_of_illegal {s : State} (ha : s.accepts = true) (hw : ∃ e, decode s.port.cmdWord = .error e) :
    step s = .next (endTick s (respond (.fault (.illegalCommand s.port.cmdWord)) s)) := by
  rw [step_of_accepts ha, command_of_illegal (accepts_iff.mp ha).2 hw]
  rfl

/-! ### the response word (R58, R59) -/

theorem okWord_eq (d : BitVec 24) : (Answer.ok d).word = 0x00#8 ++ d := rfl

theorem okWord_code (d : BitVec 24) : (Answer.ok d).word.extractLsb' 28 4 = 0#4 := by
  rw [okWord_eq, BitVec.extractLsb'_append_eq_of_le (by decide)]
  rfl

theorem faultWord_code (f : CmdFault) : (Answer.fault f).word.extractLsb' 28 4 = f.code := by
  rw [Answer.word, BitVec.extractLsb'_append_eq_of_le (by decide)]
  exact BitVec.extractLsb'_append_eq_left

/-- A fault's word is its code and zeros, whatever the fault records (R58). -/
theorem faultWord_of_code {f : CmdFault} {c : BitVec 4} {w : RspWord} (hc : f.code = c) (hw : c ++ 0#4 ++ 0#24 = w) :
    (Answer.fault f).word = w := by
  rw [Answer.word, hc, hw]

theorem faultCode_le_six (f : CmdFault) : f.code.toNat ≤ 6 := by
  cases f <;> simp [CmdFault.code]

/-! ### the four statements -/

/-- Settles O3: a command is read exactly when its row matches, and the rows' opcodes are distinct. -/
theorem opcodeMapSelects : Obligations.OpcodeMapSelects := by
  intro w
  have matched : ∀ {i}, decode w = .ok i → w &&& (rowOf i).mask = (rowOf i).pattern := fun h =>
    hits_iff.mp (hits_of_decode h)
  exact ⟨⟨fun ⟨_, _, h⟩ => matched h, fun h => ⟨_, _, decode_of_rowInit_hits (hits_iff.mpr h)⟩⟩,
    ⟨matched, fun h => decode_of_rowClear_hits (hits_iff.mpr h)⟩,
    ⟨fun ⟨_, _, _, _, h⟩ => matched h, fun h => ⟨_, _, _, _, decode_of_rowSetpix_hits (hits_iff.mpr h)⟩⟩,
    ⟨matched, fun h => decode_of_rowWrite_hits (hits_iff.mpr h)⟩,
    ⟨fun ⟨_, _, h⟩ => matched h, fun h => ⟨_, _, decode_of_rowMap_hits (hits_iff.mpr h)⟩⟩,
    ⟨fun ⟨_, h⟩ => matched h, fun h => ⟨_, decode_of_rowRdpix_hits (hits_iff.mpr h)⟩⟩,
    ⟨matched, fun h => decode_of_rowRdstat_hits (hits_iff.mpr h)⟩,
    fun _ hr _ hr' => hits_unique hr hr'⟩

/-- Settles O4: with these fields the word matches the row, and the decoder reads the row's operands. -/
theorem formatsCutOutTheFields : Obligations.FormatsCutOutTheFields := fun w =>
  ⟨fun hop hz => decode_of_rowInit_hits ((rowInit_hits_iff w).mpr ⟨hop, hz⟩),
    fun hop hz => decode_of_rowClear_hits ((rowClear_hits_iff w).mpr ⟨hop, hz⟩),
    fun hop hz => decode_of_rowWrite_hits ((rowWrite_hits_iff w).mpr ⟨hop, hz⟩),
    fun hop hz => decode_of_rowRdstat_hits ((rowRdstat_hits_iff w).mpr ⟨hop, hz⟩),
    fun hop => decode_of_rowSetpix_hits ((rowSetpix_hits_iff w).mpr hop),
    fun hop hz => decode_of_rowRdpix_hits ((rowRdpix_hits_iff w).mpr ⟨hop, hz⟩),
    fun hop hz => decode_of_rowMap_hits ((rowMap_hits_iff w).mpr ⟨hop, hz⟩)⟩

/-- Settles O5: a word no row matches is illegal, and raising `IllegalCommand` leaves the mode. -/
theorem illegalWordsAreAnsweredIllegal : Obligations.IllegalWordsAreAnsweredIllegal := by
  intro w
  refine ⟨illegal_iff w, ?_, ?_, faultWord_of_code (c := 1) rfl (by decide)⟩
  · rw [not_illegal_iff, exists_decode_iff]
    constructor
    · exact fun ⟨r, hr, h⟩ => ⟨r, hr, h, fun _ hr' h' => hits_unique hr' hr h' h⟩
    · exact fun ⟨r, hr, h, _⟩ => ⟨r, hr, h⟩
  · rintro s rfl ha hw
    exact step_of_illegal ha hw

/-- Settles O7: the words by their layout, and the code of every answer read back from its word. -/
theorem responseCodes : Obligations.ResponseCodes := by
  refine ⟨okWord_eq, fun _ => ?_, fun _ => ?_, fun _ => ?_, fun _ _ => ?_, fun _ => ?_, ?_, ?_⟩
  · exact faultWord_of_code (c := 1) rfl (by decide)
  · exact faultWord_of_code (c := 2) rfl (by decide)
  · exact faultWord_of_code (c := 3) rfl (by decide)
  · exact faultWord_of_code (c := 4) rfl (by decide)
  · exact faultWord_of_code (c := 5) rfl (by decide)
  · exact faultWord_of_code (c := 6) rfl (by decide)
  · rintro (d | f)
    · simp [okWord_code]
    · rw [faultWord_code]
      exact faultCode_le_six f

end Sys2Proof.Machine
end

section
/-! PROOFS. INIT succeeds at most once between resets (40_driver_control.md R68): the registers INIT writes, what keeps
them, and the tick that keeps them because it accepts no INIT in UNINIT; then the statement. -/

namespace Sys2Proof.Machine

/-! ### the registers INIT writes (R65) -/

/-- `t` holds every register INIT writes as `s` holds it. -/
structure SetupKept (s t : State) : Prop where
  mode : t.mode = s.mode
  ledcnt : t.ledcnt = s.ledcnt
  pinsel : t.pinsel = s.pinsel
  doutOe : t.doutOe = s.doutOe

theorem setupKept_refl (s : State) : SetupKept s s := ⟨rfl, rfl, rfl, rfl⟩

/-- A fault writes no register but the mode, and that only when it is `NoTimingResource` (R107). -/
theorem setupKept_takeFault {f : CmdFault} {s : State} (h : f.modeAfter s.mode = s.mode) :
    SetupKept s (takeFault f s) :=
  ⟨h, rfl, rfl, rfl⟩

theorem setupKept_endTick {s t : State} (h : SetupKept s t) : SetupKept s (endTick s t) :=
  ⟨h.mode, h.ledcnt, h.pinsel, h.doutOe⟩

/-! ### the commands -/

/-- INIT writes them in UNINIT only. -/
theorem execInit_keeps_setup {pin : Pin} {n : BitVec 8} {s t : State} (hm : s.mode ≠ .uninit)
    (h : execInit pin n s = .next t) : SetupKept s t := by
  rcases execInit_eq_next h with ⟨_, rfl⟩ | ⟨_, _, rfl⟩ | ⟨_, hu, _⟩ | ⟨_, hu, _⟩ | ⟨_, hu, _⟩
  · exact setupKept_refl _
  · exact setupKept_takeFault rfl
  all_goals exact absurd hu hm

theorem execClear_keeps_setup {s t : State} (h : execClear s = .next t) : SetupKept s t := by
  rcases execClear_eq_next h with ⟨_, rfl⟩ | ⟨_, _, rfl⟩ | ⟨_, _, _, rfl⟩
  · exact setupKept_refl _
  · exact setupKept_takeFault rfl
  · exact ⟨rfl, rfl, rfl, rfl⟩

theorem execSetpix_keeps_setup {i : BitVec 5} {r g b : Byte} {s t : State} (h : execSetpix i r g b s = .next t) :
    SetupKept s t := by
  rcases execSetpix_eq_next h with ⟨_, rfl⟩ | ⟨_, _, rfl⟩ | ⟨_, _, _, rfl⟩ | ⟨_, _, _, _, rfl⟩
  · exact setupKept_refl _
  · exact setupKept_takeFault rfl
  · exact setupKept_takeFault rfl
  · exact ⟨rfl, rfl, rfl, rfl⟩

theorem execWrite_keeps_setup {s t : State} (h : execWrite s = .next t) : SetupKept s t := by
  rcases execWrite_eq_next h with ⟨_, rfl⟩ | ⟨_, _, rfl⟩ | ⟨_, _, rfl⟩
  · exact setupKept_refl _
  · exact setupKept_takeFault rfl
  · exact ⟨rfl, rfl, rfl, rfl⟩

theorem execMap_keeps_setup {x y : BitVec 3} {s t : State} (h : execMap x y s = .next t) : SetupKept s t := by
  rcases execMap_eq_next h with ⟨_, rfl⟩ | ⟨_, _, rfl⟩ | ⟨_, _, rfl⟩
  · exact setupKept_refl _
  · exact setupKept_takeFault rfl
  · exact ⟨rfl, rfl, rfl, rfl⟩

theorem execRdpix_keeps_setup {i : BitVec 5} {s t : State} (h : execRdpix i s = .next t) : SetupKept s t := by
  rcases execRdpix_eq_next h with ⟨_, rfl⟩ | ⟨_, _, rfl⟩ | ⟨_, _, _, rfl⟩ | ⟨_, _, _, _, _, rfl⟩
  · exact setupKept_refl _
  · exact setupKept_takeFault rfl
  · exact setupKept_takeFault rfl
  · exact ⟨rfl, rfl, rfl, rfl⟩

theorem execRdstat_keeps_setup {s t : State} (h : execRdstat s = .next t) : SetupKept s t := by
  rcases execRdstat_eq_next h with ⟨_, rfl⟩ | ⟨_, rfl⟩
  · exact setupKept_refl _
  · exact ⟨rfl, rfl, rfl, rfl⟩

/-- Every command keeps them but INIT in UNINIT. -/
theorem exec_keeps_setup {i : Instr} {s t : State} (hi : s.mode = .uninit → ∀ pin n, i ≠ .init pin n)
    (h : exec i s = .next t) : SetupKept s t := by
  cases i with
  | init pin n => exact execInit_keeps_setup (fun hu => hi hu pin n rfl) h
  | clear => exact execClear_keeps_setup h
  | setpix i r g b => exact execSetpix_keeps_setup h
  | write => exact execWrite_keeps_setup h
  | map x y => exact execMap_keeps_setup h
  | rdpix i => exact execRdpix_keeps_setup h
  | rdstat => exact execRdstat_keeps_setup h

theorem command_keeps_setup {w : Word} {s t : State}
    (hw : s.mode = .uninit → ∀ pin n, decode w ≠ .ok (.init pin n)) (h : command w s = .next t) : SetupKept s t := by
  rcases command_eq_next h with ⟨i, hi, hx⟩ | ⟨_, _, rfl⟩ | ⟨_, _, rfl⟩
  · exact exec_keeps_setup (fun hu pin n e => hw hu pin n (e ▸ hi)) hx
  · exact setupKept_takeFault rfl
  · exact setupKept_refl _

/-! ### the serializer, and the tick -/

theorem serialize_keeps_setup {s t : State} (h : serialize s = .next t) : SetupKept s t := by
  rcases serialize_eq_next h with ⟨_, rfl⟩ | ⟨_, hs⟩ | ⟨_, hg⟩
  · exact setupKept_refl _
  · obtain ⟨_, ⟨c, _, rfl⟩ | ⟨_, rfl⟩⟩ := shiftTick_eq_next hs <;> exact ⟨rfl, rfl, rfl, rfl⟩
  · obtain ⟨_, rfl⟩ | ⟨_, rfl⟩ := gapTick_eq_next hg <;> exact ⟨rfl, rfl, rfl, rfl⟩

/-- Only a reset and an INIT accepted in UNINIT write the registers of INIT. -/
theorem step_keeps_setup {s t : State} (hr : s.port.rst = false)
    (hw : s.accepts = true → s.mode = .uninit → ∀ pin n, decode s.port.cmdWord ≠ .ok (.init pin n))
    (h : step s = .next t) : SetupKept s t := by
  obtain ⟨u, rfl, ⟨hrst, _⟩ | ⟨_, ha, hc⟩ | ⟨_, _, hs⟩⟩ := step_eq_next h
  · simp [hr] at hrst
  · exact setupKept_endTick (command_keeps_setup (hw ha) hc)
  · exact setupKept_endTick (serialize_keeps_setup hs)

/-! ### INIT once more -/

/-- INIT accepted outside UNINIT is answered `StateError` and does nothing else. -/
theorem exec_init_of_not_uninit {s : State} (h : s.cmdReady = true) (hm : s.mode ≠ .uninit) (pin : Pin)
    (n : BitVec 8) : exec (.init pin n) s = .next (respond (.fault (.stateError s.mode)) s) := by
  rw [exec, execInit, ifReady_of_cmdReady h, if_pos hm, raise, takeFault_eq_respond (modeAfter_stateError _ _)]

/-- Settles O14: a READY block answers INIT with `StateError`, and is past the one mode in which INIT writes. -/
theorem configurationIsConstantInReady : Obligations.ConfigurationIsConstantInReady := by
  refine ⟨fun s pin n h hm => ?_, fun s t h hm hr => ?_⟩
  · simpa [hm] using exec_init_of_not_uninit h (by simp [hm]) pin n
  · have kept : SetupKept s t := step_keeps_setup hr (fun _ hu => by simp [hm] at hu) h
    exact ⟨kept.mode.trans hm, kept.ledcnt, kept.pinsel⟩

end Sys2Proof.Machine
end

section
/-! PROOFS. The store and load laws of the pixel buffer (41_pixel_buffer.md R70 to R73): each buffer command's equation in a
block that can take it, what leaves the pixels unchanged, then the statement. -/

namespace Sys2Proof.Machine

/-! ### a block whose buffer can be read and written -/

/-- The block takes a command in READY, and every visible pixel has a register. -/
structure BufferReady (s : State) : Prop where
  cmdReady : s.cmdReady = true
  mode : s.mode = .ready
  registers : s.ledcnt.toNat ≤ s.pixels.length

theorem bufferReady_respond {s : State} (h : BufferReady s) (a : Answer) : BufferReady (respond a s) :=
  ⟨h.cmdReady, h.mode, h.registers⟩

theorem bufferReady_setPixels {s : State} (h : BufferReady s) {v : List Pixel} (hv : v.length = s.pixels.length) :
    BufferReady { s with pixels := v } :=
  ⟨h.cmdReady, h.mode, hv ▸ h.registers⟩

/-! ### the buffer commands in such a block (R70, R71, R72) -/

theorem exec_clear_of_bufferReady {s : State} (h : BufferReady s) :
    exec .clear s = .next (respondOk 0 { s with pixels := clearBelow s.ledcnt.toNat s.pixels }) := by
  rw [exec, execClear, ifReady_of_cmdReady h.cmdReady, if_neg (not_not.mpr h.mode), if_neg (Nat.not_lt.mpr h.registers)]

theorem exec_setpix_of_lt {s : State} (h : BufferReady s) {i : BitVec 5} (hi : i.toNat < s.ledcnt.toNat) (r g b : Byte) :
    exec (.setpix i r g b) s = .next (respondOk 0 { s with pixels := s.pixels.set i.toNat (r ++ g ++ b) }) := by
  have inRange : indexOut i s = false := by simpa [indexOut] using hi
  rw [exec, execSetpix, ifReady_of_cmdReady h.cmdReady, if_neg (not_not.mpr h.mode), inRange,
    setPixel_eq_next.mpr ⟨hi.trans_le h.registers, rfl⟩]
  rfl

theorem exec_setpix_of_ge {s : State} (h : BufferReady s) {i : BitVec 5} (hi : s.ledcnt.toNat ≤ i.toNat) (r g b : Byte) :
    exec (.setpix i r g b) s = .next (respond (.fault (.indexRange i)) s) := by
  have outOfRange : indexOut i s = true := by simpa [indexOut] using hi
  rw [exec, execSetpix, ifReady_of_cmdReady h.cmdReady, if_neg (not_not.mpr h.mode), if_pos outOfRange, raise,
    takeFault_eq_respond (modeAfter_indexRange i _)]

/-- In range or not, SETPIX leaves the buffer ready and its visible length unchanged. -/
theorem exec_setpix_keeps_bufferReady {s : State} (h : BufferReady s) (i : BitVec 5) (r g b : Byte) :
    ∃ t, exec (.setpix i r g b) s = .next t ∧ BufferReady t ∧ t.ledcnt = s.ledcnt := by
  rcases Nat.lt_or_ge i.toNat s.ledcnt.toNat with hi | hi
  · exact ⟨_, exec_setpix_of_lt h hi r g b, bufferReady_respond (bufferReady_setPixels h List.length_set) _, rfl⟩
  · exact ⟨_, exec_setpix_of_ge h hi r g b, bufferReady_respond h _, rfl⟩

theorem respond_injective {a a' : Answer} {s : State} (h : respond a s = respond a' s) : a = a' := by
  simpa using congrArg State.rspsRev h

/-- RDPIX answers `p` exactly when `p` stands in a visible register. -/
theorem exec_rdpix_eq_ok_iff {s : State} (h : BufferReady s) {i : BitVec 5} {p : Pixel} :
    exec (.rdpix i) s = .next (respond (.ok p) s) ↔ i.toNat < s.ledcnt.toNat ∧ s.pixel? i.toNat = some p := by
  constructor
  · intro hx
    rcases execRdpix_eq_next hx with ⟨hc, _⟩ | ⟨_, hm, _⟩ | ⟨_, _, _, ht⟩ | ⟨_, _, hi, q, hq, ht⟩
    · simp [h.cmdReady] at hc
    · exact absurd h.mode hm
    · rw [takeFault_eq_respond (modeAfter_indexRange i _)] at ht
      cases respond_injective ht
    · cases respond_injective ht
      exact ⟨hi, hq⟩
  · rintro ⟨hi, hp⟩
    have inRange : indexOut i s = false := by simpa [indexOut] using hi
    rw [exec, execRdpix, ifReady_of_cmdReady h.cmdReady, if_neg (not_not.mpr h.mode), inRange, hp]
    rfl

/-! ### what a store changes for a later load (R73) -/

/-- The store of one pixel, seen through RDPIX: the pixel written is read back, another is read as before. -/
theorem rdpix_after_setpix {s : State} (h : BufferReady s) {i : BitVec 5} (hi : i.toNat < s.ledcnt.toNat) (r g b : Byte) :
    ∃ t, exec (.setpix i r g b) s = .next t ∧ BufferReady t ∧ t.ledcnt = s.ledcnt
      ∧ exec (.rdpix i) t = .next (respond (.ok (r ++ g ++ b)) t)
      ∧ ∀ (j : BitVec 5) (p : Pixel), j ≠ i → exec (.rdpix j) s = .next (respond (.ok p) s) →
          exec (.rdpix j) t = .next (respond (.ok p) t) := by
  have ready := bufferReady_respond (bufferReady_setPixels h (List.length_set (i := i.toNat) (a := r ++ g ++ b))) (.ok 0)
  refine ⟨_, exec_setpix_of_lt h hi r g b, ready, rfl, ?_, fun j p hj hp => ?_⟩
  · exact (exec_rdpix_eq_ok_iff ready).mpr ⟨hi, List.getElem?_set_self (hi.trans_le h.registers)⟩
  · obtain ⟨hlt, hpix⟩ := (exec_rdpix_eq_ok_iff h).mp hp
    have other : i.toNat ≠ j.toNat := fun e => hj (BitVec.eq_of_toNat_eq e.symm)
    exact (exec_rdpix_eq_ok_iff ready).mpr ⟨hlt, (List.getElem?_set_ne other).trans hpix⟩

theorem rdpix_after_clear {s : State} (h : BufferReady s) :
    ∃ t, exec .clear s = .next t
      ∧ ∀ j : BitVec 5, j.toNat < s.ledcnt.toNat → exec (.rdpix j) t = .next (respond (.ok 0) t) := by
  have ready := bufferReady_respond (bufferReady_setPixels h (clearBelow_length s.ledcnt.toNat s.pixels)) (.ok 0)
  refine ⟨_, exec_clear_of_bufferReady h, fun j hj => (exec_rdpix_eq_ok_iff ready).mpr ⟨hj, ?_⟩⟩
  exact (clearBelow_getElem? ..).trans (if_pos ⟨hj, hj.trans_le h.registers⟩)

/-- CLEAR wins over any stores before it, those out of range included. -/
theorem rdpix_after_sets_then_clear (sets : List Instr) (hsets : ∀ c ∈ sets, ∃ i r g b, c = .setpix i r g b)
    {s : State} (h : BufferReady s) :
    ∃ t, execAll (sets ++ [.clear]) s = .next t
      ∧ ∀ j : BitVec 5, j.toNat < s.ledcnt.toNat → exec (.rdpix j) t = .next (respond (.ok 0) t) := by
  induction sets generalizing s with
  | nil =>
    obtain ⟨t, ht, hread⟩ := rdpix_after_clear h
    exact ⟨t, by simp only [List.nil_append, execAll, ht], hread⟩
  | cons c sets ih =>
    obtain ⟨⟨i, r, g, b, rfl⟩, hrest⟩ := List.forall_mem_cons.mp hsets
    obtain ⟨u, hu, ready, hled⟩ := exec_setpix_keeps_bufferReady h i r g b
    obtain ⟨t, ht, hread⟩ := ih hrest ready
    exact ⟨t, by simp only [List.cons_append, execAll, hu, ht], hled ▸ hread⟩

/-! ### what leaves every pixel unchanged -/

theorem serialize_keeps_pixels {s t : State} (h : serialize s = .next t) : t.pixels = s.pixels := by
  rcases serialize_eq_next h with ⟨_, rfl⟩ | ⟨_, hs⟩ | ⟨_, hg⟩
  · rfl
  · obtain ⟨_, ⟨c, _, rfl⟩ | ⟨_, rfl⟩⟩ := shiftTick_eq_next hs <;> rfl
  · obtain ⟨_, rfl⟩ | ⟨_, rfl⟩ := gapTick_eq_next hg <;> rfl

theorem execInit_keeps_pixels {pin : Pin} {n : BitVec 8} {s t : State} (h : execInit pin n s = .next t) :
    t.pixels = s.pixels := by
  rcases execInit_eq_next h with ⟨_, rfl⟩ | ⟨_, _, rfl⟩ | ⟨_, _, _, rfl⟩ | ⟨_, _, _, _, rfl⟩ | ⟨_, _, _, _, rfl⟩ <;> rfl

theorem execWrite_keeps_pixels {s t : State} (h : execWrite s = .next t) : t.pixels = s.pixels := by
  rcases execWrite_eq_next h with ⟨_, rfl⟩ | ⟨_, _, rfl⟩ | ⟨_, _, rfl⟩ <;> rfl

theorem execMap_keeps_pixels {x y : BitVec 3} {s t : State} (h : execMap x y s = .next t) : t.pixels = s.pixels := by
  rcases execMap_eq_next h with ⟨_, rfl⟩ | ⟨_, _, rfl⟩ | ⟨_, _, rfl⟩ <;> rfl

theorem execRdpix_keeps_pixels {i : BitVec 5} {s t : State} (h : execRdpix i s = .next t) : t.pixels = s.pixels := by
  rcases execRdpix_eq_next h with ⟨_, rfl⟩ | ⟨_, _, rfl⟩ | ⟨_, _, _, rfl⟩ | ⟨_, _, _, _, _, rfl⟩ <;> rfl

theorem execRdstat_keeps_pixels {s t : State} (h : execRdstat s = .next t) : t.pixels = s.pixels := by
  rcases execRdstat_eq_next h with ⟨_, rfl⟩ | ⟨_, rfl⟩ <;> rfl

theorem execClear_keeps_pixels_or_ok {s t : State} (h : execClear s = .next t) :
    t.pixels = s.pixels ∨ t.rspsRev = ⟨s.now, .ok 0⟩ :: s.rspsRev := by
  rcases execClear_eq_next h with ⟨_, rfl⟩ | ⟨_, _, rfl⟩ | ⟨_, _, _, rfl⟩
  · exact .inl rfl
  · exact .inl rfl
  · exact .inr rfl

theorem execSetpix_keeps_pixels_or_ok {i : BitVec 5} {r g b : Byte} {s t : State} (h : execSetpix i r g b s = .next t) :
    t.pixels = s.pixels ∨ t.rspsRev = ⟨s.now, .ok 0⟩ :: s.rspsRev := by
  rcases execSetpix_eq_next h with ⟨_, rfl⟩ | ⟨_, _, rfl⟩ | ⟨_, _, _, rfl⟩ | ⟨_, _, _, _, rfl⟩
  · exact .inl rfl
  · exact .inl rfl
  · exact .inl rfl
  · exact .inr rfl

/-- Only CLEAR and SETPIX write pixels, and only when they answer `OK`. -/
theorem exec_keeps_pixels {c : Instr} {s t : State} (h : exec c s = .next t) :
    t.pixels = s.pixels
    ∨ ((c = .clear ∨ ∃ i r g b, c = .setpix i r g b) ∧ t.rspsRev = ⟨s.now, .ok 0⟩ :: s.rspsRev) := by
  cases c with
  | init pin n => exact .inl (execInit_keeps_pixels h)
  | clear => exact (execClear_keeps_pixels_or_ok h).imp_right fun ok => ⟨.inl rfl, ok⟩
  | setpix i r g b => exact (execSetpix_keeps_pixels_or_ok h).imp_right fun ok => ⟨.inr ⟨i, r, g, b, rfl⟩, ok⟩
  | write => exact .inl (execWrite_keeps_pixels h)
  | map x y => exact .inl (execMap_keeps_pixels h)
  | rdpix i => exact .inl (execRdpix_keeps_pixels h)
  | rdstat => exact .inl (execRdstat_keeps_pixels h)

/-- A tick with a frame in flight runs only the serializer (R79). -/
theorem step_keeps_pixels_of_busy {s t : State} (hp : s.phase ≠ .idle) (hr : s.port.rst = false)
    (h : step s = .next t) : t.pixels = s.pixels := by
  obtain ⟨u, rfl, ⟨hrst, _⟩ | ⟨_, ha, _⟩ | ⟨_, _, hs⟩⟩ := step_eq_next h
  · simp [hr] at hrst
  · simp [accepts_false_of_busy hp] at ha
  · exact (endTick_pixels s u).trans (serialize_keeps_pixels hs)

/-- Settles O20: loads after stores by RDPIX's equivalence, CLEAR after stores by induction on the stores, the frame of every
other command and of every fault because only an `OK` of CLEAR or SETPIX writes pixels. -/
theorem storeLoadLaws : Obligations.StoreLoadLaws := by
  refine ⟨fun s t hp hr h j => ?_, fun s hc hm hl => ?_⟩
  · rw [State.pixel?, step_keeps_pixels_of_busy hp hr h, State.pixel?]
  have ready : BufferReady s := ⟨hc, hm, hl⟩
  refine ⟨fun i r g b hi => ?_, fun sets hsets => rdpix_after_sets_then_clear sets hsets ready, fun c t h hcase j => ?_⟩
  · obtain ⟨t, ht, readyAfter, hled, hread, hother⟩ := rdpix_after_setpix ready hi r g b
    refine ⟨t, ht, hread, hother, fun r' g' b' => ?_⟩
    obtain ⟨u, hu, _, _, hread', _⟩ := rdpix_after_setpix readyAfter (hled ▸ hi) r' g' b'
    exact ⟨u, hu, hread'⟩
  · rcases exec_keeps_pixels h with kept | ⟨hstore, ok⟩
    · rw [State.pixel?, kept, State.pixel?]
    · rcases hcase with rfl | ⟨x, y, rfl⟩ | ⟨i, rfl⟩ | rfl | ⟨f, hf⟩
      · simp at hstore
      · simp at hstore
      · simp at hstore
      · simp at hstore
      · simp [ok] at hf

end Sys2Proof.Machine
end

section
/-! PROOFS. The serializer's tick from a legal state (42_write_serializer.md R79 to R85): the parts of legality by name, the
level a tick appends, the tick as an equation in each phase, and what it keeps; then the two statements about a SHIFT tick. -/

namespace Sys2Proof.Machine

/-! ### the parts of a legal state by name -/

/-- The clauses of `State.Inv`, named. -/
structure LegalState (s : State) : Prop where
  config : s.cfg.legal = true
  widths : s.cfg.encodable = true
  registers : s.pixels.length = s.cfg.nMax
  count : s.mode = .ready → 1 ≤ s.ledcnt.toNat ∧ s.ledcnt.toNat ≤ s.cfg.nMax
  unconfigured : s.mode ≠ .ready → s.ledcnt = 0 ∧ s.pinsel = 0
  driven : s.doutOe = true ↔ s.mode = .ready
  ready_of_busy : s.phase ≠ .idle → s.mode = .ready
  onFrame : s.phase = .shift → s.pc.pix.toNat < s.ledcnt.toNat ∧ s.pc.tick.toNat < s.cfg.cellTicks
  pc_idle : s.phase ≠ .shift → s.pc = Cursor.idle
  inGap : s.phase = .gap → s.gapcnt.toNat < s.cfg.resetTicks
  gapcnt_zero : s.phase ≠ .gap → s.gapcnt = 0

theorem inv_iff_legalState {s : State} : s.Inv ↔ LegalState s := by
  constructor
  · rintro ⟨h1, h2, h3, h4, h5, h6, h7, h8, h9, h10, h11⟩
    exact ⟨h1, h2, h3, h4, h5, h6, h7, h8, h9, h10, h11⟩
  · rintro ⟨h1, h2, h3, h4, h5, h6, h7, h8, h9, h10, h11⟩
    exact ⟨h1, h2, h3, h4, h5, h6, h7, h8, h9, h10, h11⟩

namespace LegalState

variable {s : State} (h : LegalState s)
include h

theorem visible (hm : s.mode = .ready) : s.ledcnt.toNat ≤ s.pixels.length := h.registers ▸ (h.count hm).2

theorem doutOe_of_busy (hp : s.phase ≠ .idle) : s.doutOe = true := h.driven.mpr (h.ready_of_busy hp)

theorem doutOe_of_not_ready (hm : s.mode ≠ .ready) : s.doutOe = false :=
  Bool.eq_false_iff.mpr fun hd => hm (h.driven.mp hd)

theorem idle_of_not_ready (hm : s.mode ≠ .ready) : s.phase = .idle :=
  not_not.mp fun hp => hm (h.ready_of_busy hp)

theorem pix_lt (hp : s.phase = .shift) : s.pc.pix.toNat < s.pixels.length :=
  (h.onFrame hp).1.trans_le (h.visible (h.ready_of_busy (by simp [hp])))

theorem cellTicks_pos : 0 < s.cfg.cellTicks := by
  have := params_legal_iff.mp h.config
  omega

/-- Legality is about the hardware, not about the record or the host. -/
theorem endTick (u : State) : LegalState (Machine.endTick u s) :=
  ⟨h.config, h.widths, h.registers, h.count, h.unconfigured, h.driven, h.ready_of_busy, h.onFrame, h.pc_idle, h.inGap,
    h.gapcnt_zero⟩

/-- A frame under way at a cursor on the frame, with the gap not begun. -/
theorem shiftAt (hm : s.mode = .ready) (hg : s.gapcnt = 0) {c : Cursor} (hpix : c.pix.toNat < s.ledcnt.toNat)
    (htick : c.tick.toNat < s.cfg.cellTicks) : LegalState { s with phase := .shift, pc := c } where
  config := h.config
  widths := h.widths
  registers := h.registers
  count := h.count
  unconfigured := h.unconfigured
  driven := h.driven
  ready_of_busy := fun _ => hm
  onFrame := fun _ => ⟨hpix, htick⟩
  pc_idle := fun hp => absurd rfl hp
  inGap := nofun
  gapcnt_zero := fun _ => hg

/-- The gap under way, its count in range. -/
theorem gapAt (hm : s.mode = .ready) {n : BitVec 10} (hn : n.toNat < s.cfg.resetTicks) :
    LegalState { s with phase := .gap, pc := Cursor.idle, gapcnt := n } where
  config := h.config
  widths := h.widths
  registers := h.registers
  count := h.count
  unconfigured := h.unconfigured
  driven := h.driven
  ready_of_busy := fun _ => hm
  onFrame := nofun
  pc_idle := fun _ => rfl
  inGap := fun _ => hn
  gapcnt_zero := fun hp => absurd rfl hp

end LegalState

/-! ### the level a tick appends (R80, R85) -/

theorem dout_of_not_shift {s : State} (hp : s.phase ≠ .shift) : s.dout = false := by
  cases h : s.phase <;> simp_all [State.dout]

theorem level_of_driven {s : State} (hr : s.port.rst = false) (hd : s.doutOe = true) :
    s.level = if s.dout then .high else .low := by
  simp [State.level, hr, hd]

theorem level_of_not_driven {s : State} (hd : s.doutOe = false) : s.level = .z := by
  simp [State.level, hd]

/-- A driven tick outside SHIFT holds the line low. -/
theorem level_of_not_shift {s : State} (hr : s.port.rst = false) (hd : s.doutOe = true) (hp : s.phase ≠ .shift) :
    s.level = .low := by
  simp [level_of_driven hr hd, dout_of_not_shift hp]

/-- A SHIFT tick is high below the high time of the bit under the cursor. -/
theorem level_of_shift {s : State} (hr : s.port.rst = false) (hd : s.doutOe = true) (hp : s.phase = .shift) {p : Pixel}
    (hpix : s.pixel? s.pc.pix.toNat = some p) :
    s.level = if s.pc.tick.toNat < highTicks s.cfg (bitAt p s.pc) then .high else .low := by
  simp [level_of_driven hr hd, State.dout, hp, hpix]

/-! ### the cursor's last place (R81) -/

/-- With the cursor on the frame, it has nowhere to go exactly at the last tick of the last bit of the last pixel. -/
theorem advance_eq_none_iff {s : State} (h : LegalState s) (hp : s.phase = .shift) :
    s.pc.advance s.cfg s.ledcnt = none ↔ s.pc.pix.toNat + 1 = s.ledcnt.toNat ∧ s.pc.byte = .blue ∧ s.pc.bit = 0
      ∧ s.pc.tick.toNat + 1 = s.cfg.cellTicks := by
  obtain ⟨hpix, htick⟩ := h.onFrame hp
  constructor
  · intro ha
    obtain ⟨hlast, hbit, hbyte, hled⟩ := advance_eq_none ha
    exact ⟨by omega, hbyte, BitVec.eq_of_toNat_eq hbit, by omega⟩
  · rintro ⟨hled, hbyte, hbit, hlast⟩
    simp only [Cursor.advance, hbyte, hbit, WireByte.next?]
    rw [if_neg (by omega), if_neg (by simp), if_neg (by omega)]

/-- Advancing keeps the cursor on the frame. -/
theorem advance_onFrame {s : State} (h : LegalState s) (hp : s.phase = .shift) {c : Cursor}
    (ha : s.pc.advance s.cfg s.ledcnt = some c) : c.pix.toNat < s.ledcnt.toNat ∧ c.tick.toNat < s.cfg.cellTicks := by
  obtain ⟨hpix, htick⟩ := h.onFrame hp
  have hpos := h.cellTicks_pos
  have hled := (h.count (h.ready_of_busy (by simp [hp]))).2
  rcases advance_eq_some ha with ⟨ht, rfl⟩ | ⟨_, _, rfl⟩ | ⟨_, _, b, _, rfl⟩ | ⟨_, _, _, hnext, rfl⟩
  · refine ⟨hpix, ?_⟩
    rw [tick_succ h.config ht]
    omega
  · exact ⟨hpix, hpos⟩
  · exact ⟨hpix, hpos⟩
  · refine ⟨?_, hpos⟩
    rw [pix_succ h.config (by omega)]
    exact hnext

/-! ### the serializer's tick as an equation -/

theorem serialize_of_advance {s : State} (h : LegalState s) (hp : s.phase = .shift) {c : Cursor}
    (ha : s.pc.advance s.cfg s.ledcnt = some c) : serialize s = .next { s with pc := c } := by
  simp [serialize, hp, shiftTick, h.pix_lt hp, ha]

theorem serialize_of_lastPlace {s : State} (h : LegalState s) (hp : s.phase = .shift)
    (ha : s.pc.advance s.cfg s.ledcnt = none) :
    serialize s = .next { s with pc := Cursor.idle, phase := .gap, gapcnt := 0 } := by
  simp [serialize, hp, shiftTick, h.pix_lt hp, ha]

theorem serialize_of_gap_lt {s : State} (hp : s.phase = .gap) (hg : s.gapcnt.toNat < s.cfg.resetTicks - 1) :
    serialize s = .next { s with gapcnt := s.gapcnt + 1 } := by
  simp [serialize, hp, gapTick, hg]

theorem serialize_of_gap_last {s : State} (hp : s.phase = .gap) (hg : s.cfg.resetTicks - 1 ≤ s.gapcnt.toNat) :
    serialize s = .next (respondOk 0 { s with gapcnt := 0, phase := .idle }) := by
  simp [serialize, hp, gapTick, Nat.not_lt.mpr hg]

/-- From a legal state the serializer always completes. -/
theorem serialize_completes {s : State} (h : LegalState s) : ∃ t, serialize s = .next t := by
  cases hp : s.phase with
  | idle => exact ⟨s, by rw [serialize, hp]⟩
  | shift =>
    cases ha : s.pc.advance s.cfg s.ledcnt with
    | some c => exact ⟨_, serialize_of_advance h hp ha⟩
    | none => exact ⟨_, serialize_of_lastPlace h hp ha⟩
  | gap =>
    rcases Nat.lt_or_ge s.gapcnt.toNat (s.cfg.resetTicks - 1) with hg | hg
    · exact ⟨_, serialize_of_gap_lt hp hg⟩
    · exact ⟨_, serialize_of_gap_last hp hg⟩

/-- A tick without reset and without an accepted word is the serializer's. -/
theorem step_of_serialize {s u : State} (hr : s.port.rst = false) (ha : s.accepts = false) (hu : serialize s = .next u) :
    step s = .next (endTick s u) := by
  rw [step_of_no_command hr ha, hu, onNext]

theorem step_of_busy {s u : State} (hr : s.port.rst = false) (hp : s.phase ≠ .idle) (hu : serialize s = .next u) :
    step s = .next (endTick s u) :=
  step_of_serialize hr (accepts_false_of_busy hp) hu

/-- The end of a tick that accepts nothing: one level on the record, and the host moves on. -/
theorem endTick_of_no_command {s : State} (ha : s.accepts = false) (u : State) :
    endTick s u = { u with wireRev := s.level :: u.wireRev, host := s.hostNext } := by
  simp [endTick, ha]

/-! ### a command on the port: it completes, and only WRITE in READY touches the serializer -/

theorem ifReady_completes {s : State} {body : Out} (h : ∃ t, body = .next t) : ∃ t, ifReady s body = .next t := by
  unfold ifReady
  split
  · exact h
  · exact ⟨s, rfl⟩

/-- With a register behind every visible pixel no command stops the block. -/
theorem exec_completes {s : State} (hv : s.mode = .ready → s.ledcnt.toNat ≤ s.pixels.length) (i : Instr) :
    ∃ t, exec i s = .next t := by
  cases i with
  | init pin n => exact ifReady_completes (by split_ifs <;> exact ⟨_, rfl⟩)
  | clear =>
    refine ifReady_completes ?_
    split_ifs with hm hl
    · exact ⟨_, rfl⟩
    · exact absurd (hv (not_not.mp hm)) (Nat.not_le.mpr hl)
    · exact ⟨_, rfl⟩
  | setpix i r g b =>
    refine ifReady_completes ?_
    split_ifs with hm hi
    · exact ⟨_, rfl⟩
    · exact ⟨_, rfl⟩
    · have hlt : i.toNat < s.ledcnt.toNat := by simpa [indexOut] using hi
      rw [setPixel_eq_next.mpr ⟨hlt.trans_le (hv (not_not.mp hm)), rfl⟩]
      exact ⟨_, rfl⟩
  | write => exact ifReady_completes (by split_ifs <;> exact ⟨_, rfl⟩)
  | map x y => exact ifReady_completes (by split_ifs <;> exact ⟨_, rfl⟩)
  | rdpix i =>
    refine ifReady_completes ?_
    split_ifs with hm hi
    · exact ⟨_, rfl⟩
    · exact ⟨_, rfl⟩
    · have hlt : i.toNat < s.ledcnt.toNat := by simpa [indexOut] using hi
      rw [pixel?_of_lt (hlt.trans_le (hv (not_not.mp hm)))]
      exact ⟨_, rfl⟩
  | rdstat => exact ifReady_completes ⟨_, rfl⟩

theorem command_completes {s : State} (hv : s.mode = .ready → s.ledcnt.toNat ≤ s.pixels.length) (w : Word) :
    ∃ t, command w s = .next t := by
  unfold command
  split
  · exact exec_completes hv _
  · exact ifReady_completes ⟨_, rfl⟩

/-- No command and no fault writes `WIRE`: the end of the tick does (R27). -/
theorem exec_keeps_wireRev {i : Instr} {s t : State} (h : exec i s = .next t) : t.wireRev = s.wireRev := by
  cases i with
  | init pin n =>
    rcases execInit_eq_next h with ⟨_, rfl⟩ | ⟨_, _, rfl⟩ | ⟨_, _, _, rfl⟩ | ⟨_, _, _, _, rfl⟩ | ⟨_, _, _, _, rfl⟩
      <;> rfl
  | clear => rcases execClear_eq_next h with ⟨_, rfl⟩ | ⟨_, _, rfl⟩ | ⟨_, _, _, rfl⟩ <;> rfl
  | setpix i r g b =>
    rcases execSetpix_eq_next h with ⟨_, rfl⟩ | ⟨_, _, rfl⟩ | ⟨_, _, _, rfl⟩ | ⟨_, _, _, _, rfl⟩ <;> rfl
  | write => rcases execWrite_eq_next h with ⟨_, rfl⟩ | ⟨_, _, rfl⟩ | ⟨_, _, rfl⟩ <;> rfl
  | map x y => rcases execMap_eq_next h with ⟨_, rfl⟩ | ⟨_, _, rfl⟩ | ⟨_, _, rfl⟩ <;> rfl
  | rdpix i =>
    rcases execRdpix_eq_next h with ⟨_, rfl⟩ | ⟨_, _, rfl⟩ | ⟨_, _, _, rfl⟩ | ⟨_, _, _, _, _, rfl⟩ <;> rfl
  | rdstat => rcases execRdstat_eq_next h with ⟨_, rfl⟩ | ⟨_, rfl⟩ <;> rfl

theorem command_keeps_wireRev {w : Word} {s t : State} (h : command w s = .next t) : t.wireRev = s.wireRev := by
  rcases command_eq_next h with ⟨_, _, hx⟩ | ⟨_, _, rfl⟩ | ⟨_, _, rfl⟩
  · exact exec_keeps_wireRev hx
  · rfl
  · rfl

/-! ### every tick of a legal state completes and appends its level -/

theorem serialize_keeps_wireRev {s t : State} (h : serialize s = .next t) : t.wireRev = s.wireRev := by
  rcases serialize_eq_next h with ⟨_, rfl⟩ | ⟨_, hs⟩ | ⟨_, hg⟩
  · rfl
  · obtain ⟨_, ⟨c, _, rfl⟩ | ⟨_, rfl⟩⟩ := shiftTick_eq_next hs <;> rfl
  · obtain ⟨_, rfl⟩ | ⟨_, rfl⟩ := gapTick_eq_next hg <;> rfl

theorem step_completes {s : State} (h : LegalState s) : ∃ t, step s = .next t := by
  cases hr : s.port.rst with
  | true => exact ⟨_, step_of_rst hr⟩
  | false =>
    cases ha : s.accepts with
    | true =>
      obtain ⟨u, hu⟩ := command_completes h.visible s.port.cmdWord
      exact ⟨_, by rw [step_of_accepts ha, hu, onNext]⟩
    | false =>
      obtain ⟨u, hu⟩ := serialize_completes h
      exact ⟨_, step_of_serialize hr ha hu⟩

/-- Whoever acts in the tick, `WIRE` grows by the level of its start (R27, R79). -/
theorem step_appends_level {s t : State} (h : step s = .next t) : t.wire = s.wire ++ [s.level] := by
  obtain ⟨u, rfl, hu⟩ := step_eq_next h
  have kept : u.wireRev = s.wireRev := by
    rcases hu with ⟨_, rfl⟩ | ⟨_, _, hc⟩ | ⟨_, _, hs⟩
    · rfl
    · exact command_keeps_wireRev hc
    · exact serialize_keeps_wireRev hs
  rw [endTick_wire, State.wire, kept, ← State.wire]

/-! ### the two statements about a SHIFT tick -/

/-- Settles O28: the level lemmas, and that a busy block keeps its pixels. -/
theorem shiftTickLevel : Obligations.ShiftTickLevel := by
  intro s hs hr
  have legal := inv_iff_legalState.mp hs
  obtain ⟨t, ht⟩ := step_completes legal
  have wire := step_appends_level ht
  refine ⟨fun hp => ?_, fun hp hd => ?_, fun hp => ⟨t, ht, step_keeps_pixels_of_busy hp hr ht⟩⟩
  · have hd := legal.doutOe_of_busy (by simp [hp])
    have hpix := pixel?_of_lt (legal.pix_lt hp)
    refine ⟨_, t, hpix, ht, ?_⟩
    rw [wire, level_of_shift hr hd hp hpix, highTicks, bitAt]
    cases s.pc.byte <;> rfl
  · exact ⟨t, ht, by rw [wire, level_of_not_shift hr hd hp]⟩

/-- Settles O29: the four ways the cursor advances, and the one place from which it cannot. -/
theorem shiftTickAdvancesTheCursor : Obligations.ShiftTickAdvancesTheCursor := by
  intro s hs hr hp
  have legal := inv_iff_legalState.mp hs
  have busy : s.phase ≠ .idle := by simp [hp]
  have hg : s.gapcnt = 0 := legal.gapcnt_zero (by simp [hp])
  have hidle := accepts_false_of_busy busy
  cases ha : s.pc.advance s.cfg s.ledcnt with
  | none =>
    obtain ⟨hpix, hbyte, hbit, htick⟩ := (advance_eq_none_iff legal hp).mp ha
    have lastTick : ¬ s.pc.tick.toNat < s.cfg.cellTicks - 1 := by omega
    have lastPixel : ¬ s.pc.pix.toNat < s.ledcnt.toNat - 1 := by omega
    rw [step_of_busy hr busy (serialize_of_lastPlace legal hp ha), endTick_of_no_command hidle]
    simp [lastTick, lastPixel, hbyte, hbit, Cursor.idle]
  | some c =>
    rw [step_of_busy hr busy (serialize_of_advance legal hp ha), endTick_of_no_command hidle]
    rcases advance_eq_some ha with ⟨ht, rfl⟩ | ⟨ht, hb, rfl⟩ | ⟨ht, hb, b, hn, rfl⟩ | ⟨ht, hb, hblue, hnext, rfl⟩
    · simp [ht, hp, hg]
    · simp [Nat.not_lt.mpr ht, hb, hp, hg]
    · cases hbyte : s.pc.byte with
      | green =>
        obtain rfl : .red = b := by simpa [hbyte, WireByte.next?] using hn
        simp [Nat.not_lt.mpr ht, hb, hp, hg]
      | red =>
        obtain rfl : .blue = b := by simpa [hbyte, WireByte.next?] using hn
        simp [Nat.not_lt.mpr ht, hb, hp, hg]
      | blue => simp [hbyte, WireByte.next?] at hn
    · have notLast : s.pc.pix.toNat < s.ledcnt.toNat - 1 := by omega
      simp [Nat.not_lt.mpr ht, hb, hblue, notLast, hp, hg]

end Sys2Proof.Machine
end

section
/-! PROOFS. The sequencer as one table (42_write_serializer.md R91): which word is WRITE, what each row's command or serializer
tick does to `MODE` and `PHASE`, then the statement. -/

namespace Sys2Proof.Machine

/-! ### the word WRITE, and the tick that accepts it (R57, R76) -/

theorem decode_eq_write_iff {w : Word} : decode w = .ok .write ↔ w = 0x80000000#32 := by
  have masked : w &&& rowWrite.mask = w := BitVec.and_allOnes
  constructor
  · intro h
    exact masked.symm.trans (hits_iff.mp (hits_of_decode h))
  · rintro rfl
    exact decode_of_rowWrite_hits (hits_iff.mpr masked)

theorem command_of_decode {w : Word} {i : Instr} (h : decode w = .ok i) (s : State) : command w s = exec i s := by
  rw [command, h]

/-- The tick that accepts WRITE in READY starts the frame. -/
theorem step_of_write {s : State} (ha : s.accepts = true) (hm : s.mode = .ready) (hw : s.port.cmdWord = 0x80000000#32) :
    step s = .next (endTick s { s with phase := .shift, pc := Cursor.idle }) := by
  have hx : exec .write s = .next { s with phase := .shift, pc := Cursor.idle } := by
    rw [exec, execWrite, ifReady_of_cmdReady (accepts_iff.mp ha).2, if_neg (not_not.mpr hm)]
  rw [step_of_accepts ha, command_of_decode (decode_eq_write_iff.mpr hw), hx, onNext]

/-! ### `PHASE` after a command -/

/-- Only WRITE in READY leaves IDLE. -/
theorem exec_keeps_phase {i : Instr} {s t : State} (hi : s.mode = .ready → i ≠ .write) (h : exec i s = .next t) :
    t.phase = s.phase := by
  cases i with
  | init pin n =>
    rcases execInit_eq_next h with ⟨_, rfl⟩ | ⟨_, _, rfl⟩ | ⟨_, _, _, rfl⟩ | ⟨_, _, _, _, rfl⟩ | ⟨_, _, _, _, rfl⟩
      <;> rfl
  | clear => rcases execClear_eq_next h with ⟨_, rfl⟩ | ⟨_, _, rfl⟩ | ⟨_, _, _, rfl⟩ <;> rfl
  | setpix i r g b =>
    rcases execSetpix_eq_next h with ⟨_, rfl⟩ | ⟨_, _, rfl⟩ | ⟨_, _, _, rfl⟩ | ⟨_, _, _, _, rfl⟩ <;> rfl
  | write =>
    rcases execWrite_eq_next h with ⟨_, rfl⟩ | ⟨_, _, rfl⟩ | ⟨_, hm, _⟩
    · rfl
    · rfl
    · exact absurd rfl (hi hm)
  | map x y => rcases execMap_eq_next h with ⟨_, rfl⟩ | ⟨_, _, rfl⟩ | ⟨_, _, rfl⟩ <;> rfl
  | rdpix i =>
    rcases execRdpix_eq_next h with ⟨_, rfl⟩ | ⟨_, _, rfl⟩ | ⟨_, _, _, rfl⟩ | ⟨_, _, _, _, _, rfl⟩ <;> rfl
  | rdstat => rcases execRdstat_eq_next h with ⟨_, rfl⟩ | ⟨_, rfl⟩ <;> rfl

theorem command_keeps_phase {w : Word} {s t : State} (hw : s.mode = .ready → w ≠ 0x80000000#32)
    (h : command w s = .next t) : t.phase = s.phase := by
  rcases command_eq_next h with ⟨i, hi, hx⟩ | ⟨_, _, rfl⟩ | ⟨_, _, rfl⟩
  · exact exec_keeps_phase (fun hm hwrite => hw hm (decode_eq_write_iff.mp (hwrite ▸ hi))) hx
  · rfl
  · rfl

/-- An idle block stays idle but for a WRITE accepted in READY. -/
theorem step_keeps_idle {s t : State} (hp : s.phase = .idle)
    (hw : s.accepts = true → s.mode = .ready → s.port.cmdWord ≠ 0x80000000#32) (h : step s = .next t) :
    t.phase = .idle := by
  obtain ⟨u, rfl, ⟨_, rfl⟩ | ⟨_, ha, hc⟩ | ⟨_, _, hs⟩⟩ := step_eq_next h
  · rfl
  · exact (command_keeps_phase (hw ha) hc).trans hp
  · rcases serialize_eq_next hs with ⟨_, rfl⟩ | ⟨hshift, _⟩ | ⟨hgap, _⟩
    · exact hp
    · simp [hp] at hshift
    · simp [hp] at hgap

/-! ### `MODE` after a tick in UNINIT (R65) -/

theorem countBad_eq_false_iff {n : BitVec 8} {s : State} :
    countBad n s = false ↔ 1 ≤ n.toNat ∧ n.toNat ≤ s.cfg.nMax := by
  simp only [countBad, Bool.or_eq_false_iff, decide_eq_false_iff_not]
  omega

theorem exec_init_mode_of_uninit {pin : Pin} {n : BitVec 8} {s t : State} (hc : s.cmdReady = true)
    (hm : s.mode = .uninit) (h : exec (.init pin n) s = .next t) :
    t.mode = if 1 ≤ n.toNat ∧ n.toNat ≤ s.cfg.nMax then (if s.port.tgAvail then .ready else .fatal) else .uninit := by
  simp only [← countBad_eq_false_iff]
  rcases execInit_eq_next h with ⟨hr, _⟩ | ⟨_, hu, _⟩ | ⟨_, _, hb, rfl⟩ | ⟨_, _, hb, htg, rfl⟩ | ⟨_, _, hb, htg, rfl⟩
  · simp [hc] at hr
  · exact absurd hm hu
  · simp [hb, hm]
  · simp [hb, htg]
  · simp [hb, htg]

theorem step_mode_of_init {s t : State} (ha : s.accepts = true) (hm : s.mode = .uninit) {pin : Pin} {n : BitVec 8}
    (hd : decode s.port.cmdWord = .ok (.init pin n)) (h : step s = .next t) :
    t.mode = if 1 ≤ n.toNat ∧ n.toNat ≤ s.cfg.nMax then (if s.port.tgAvail then .ready else .fatal) else .uninit := by
  rw [step_of_accepts ha, command_of_decode hd] at h
  obtain ⟨u, hu, rfl⟩ := onNext_eq_next.mp h
  rw [endTick_mode]
  exact exec_init_mode_of_uninit (accepts_iff.mp ha).2 hm hu

/-! ### the rows with a frame in flight (R81, R83) -/

theorem step_shift_row {s t : State} (hl : LegalState s) (hr : s.port.rst = false) (hp : s.phase = .shift)
    (h : step s = .next t) :
    if s.pc.pix.toNat + 1 = s.ledcnt.toNat ∧ s.pc.byte = .blue ∧ s.pc.bit = 0 ∧ s.pc.tick.toNat + 1 = s.cfg.cellTicks
    then t.phase = .gap ∧ t.wire = s.wire ++ [.low]
    else t.phase = .shift ∧ t.wire = s.wire ++ [if s.dout then .high else .low] := by
  have busy : s.phase ≠ .idle := by simp [hp]
  have hd := hl.doutOe_of_busy busy
  have wire := step_appends_level h
  split
  · next last =>
    rw [step_of_busy hr busy (serialize_of_lastPlace hl hp ((advance_eq_none_iff hl hp).mpr last))] at h
    cases h
    obtain ⟨_, _, _, hlast⟩ := last
    have hpix := pixel?_of_lt (hl.pix_lt hp)
    have afterHigh := highTicks_lt_cell hl.config (bitAt (s.pixels[s.pc.pix.toNat]'(hl.pix_lt hp)) s.pc)
    rw [level_of_shift hr hd hp hpix, if_neg (by omega)] at wire
    exact ⟨rfl, wire⟩
  · next notLast =>
    obtain ⟨c, ha⟩ := Option.ne_none_iff_exists'.mp (mt (advance_eq_none_iff hl hp).mp notLast)
    rw [step_of_busy hr busy (serialize_of_advance hl hp ha)] at h
    cases h
    rw [level_of_driven hr hd] at wire
    exact ⟨hp, wire⟩

theorem step_gap_row {s t : State} (hr : s.port.rst = false) (hp : s.phase = .gap) (h : step s = .next t) :
    if s.gapcnt.toNat + 1 < s.cfg.resetTicks then t.phase = .gap
    else t.phase = .idle ∧ t.rsps = s.rsps ++ [⟨s.now, .ok 0⟩] := by
  have busy : s.phase ≠ .idle := by simp [hp]
  split
  · rw [step_of_busy hr busy (serialize_of_gap_lt hp (by omega))] at h
    cases h
    exact hp
  · rw [step_of_busy hr busy (serialize_of_gap_last hp (by omega))] at h
    cases h
    exact ⟨rfl, respond_rsps _ _⟩

/-! ### the statement -/

/-- Settles O37: `MODE` moves only by INIT in UNINIT, `PHASE` leaves IDLE only by WRITE, and a frame in flight follows the
cursor and the gap count. -/
theorem transitionTable : Obligations.TransitionTable := by
  intro s hs
  have legal := inv_iff_legalState.mp hs
  obtain ⟨t, ht⟩ := step_completes legal
  have wire := step_appends_level ht
  have idleOrReady : s.phase = .idle ∨ s.mode = .ready := by
    by_cases hm : s.mode = .ready
    · exact .inr hm
    · exact .inl (legal.idle_of_not_ready hm)
  have keepsMode (hr : s.port.rst = false) (hm : s.mode ≠ .uninit) : t.mode = s.mode :=
    (step_keeps_setup hr (fun _ hu => absurd hu hm) ht).mode
  have undriven (hm : s.mode ≠ .ready) : t.wire = s.wire ++ [.z] := by
    rw [wire, level_of_not_driven (legal.doutOe_of_not_ready hm)]
  have staysIdle (hm : s.mode ≠ .ready) : t.phase = .idle :=
    step_keeps_idle (legal.idle_of_not_ready hm) (fun _ hready => absurd hready hm) ht
  have low (hr : s.port.rst = false) (hm : s.mode = .ready) (hp : s.phase ≠ .shift) : t.wire = s.wire ++ [.low] := by
    rw [wire, level_of_not_shift hr (legal.driven.mpr hm) hp]
  refine ⟨idleOrReady, t, ht, fun hr => ?reset, fun hr => ⟨fun hm => ?uninit, fun hm hp => ?idle, fun hm hp => ?shift,
    fun hm hp => ?gap, fun hm => ?fatal⟩⟩
  case reset =>
    rw [step_of_rst hr] at ht
    cases ht
    exact ⟨rfl, rfl, by rw [wire, State.level, if_pos hr]⟩
  case uninit =>
    refine ⟨staysIdle (by simp [hm]), undriven (by simp [hm]), ?_⟩
    by_cases hinit : s.accepts = true ∧ ∃ pin n, decode s.port.cmdWord = .ok (.init pin n)
    · obtain ⟨ha, pin, n, hd⟩ := hinit
      simpa [ha, hd] using step_mode_of_init ha hm hd ht
    · have kept := step_keeps_setup hr (fun ha _ pin n hd => hinit ⟨ha, pin, n, hd⟩) ht
      rw [kept.mode, hm]
      split
      · next ha =>
        split
        · next pin n hd => exact absurd ⟨ha, pin, n, hd⟩ hinit
        · rfl
      · rfl
  case idle =>
    refine ⟨(keepsMode hr (by simp [hm])).trans hm, low hr hm (by simp [hp]), ?_⟩
    split
    · next hw =>
      rw [step_of_write hw.1 hm hw.2] at ht
      cases ht
      rfl
    · next hw => exact step_keeps_idle hp (fun ha _ hword => hw ⟨ha, hword⟩) ht
  case shift => exact ⟨(keepsMode hr (by simp [hm])).trans hm, step_shift_row legal hr hp ht⟩
  case gap => exact ⟨(keepsMode hr (by simp [hm])).trans hm, low hr hm (by simp [hp]), step_gap_row hr hp ht⟩
  case fatal => exact ⟨(keepsMode hr (by simp [hm])).trans hm, staysIdle (by simp [hm]), undriven (by simp [hm])⟩

end Sys2Proof.Machine
end

section
/-! PROOFS. The frame law (42_write_serializer.md R82, R84, R86): which bit and level stand at a place of the frame, the
ticks of a frame and of its gap as runs that keep everything but the serializer's own registers, then the two statements. -/

namespace Sys2Proof.Machine

/-! ### pieces of equal length, joined -/

section
variable {α β : Type} {f : α → List β} {n : Nat} (hf : ∀ a, (f a).length = n)
include hf

theorem length_flatMap_of_length (l : List α) : (l.flatMap f).length = n * l.length := by
  simp [List.length_flatMap, hf, Nat.mul_comm]

/-- Entry `j` of piece `i` stands at place `i * n + j`. -/
theorem getElem?_flatMap_of_length (l : List α) (i : Nat) {j : Nat} (hj : j < n) :
    (l.flatMap f)[i * n + j]? = l[i]?.bind fun a => (f a)[j]? := by
  induction l generalizing i with
  | nil => simp
  | cons a l ih =>
    rw [List.flatMap_cons]
    cases i with
    | zero => simp [List.getElem?_append_left, hf, hj]
    | succ i =>
      have skip : (i + 1) * n + j = (f a).length + (i * n + j) := by rw [hf, Nat.succ_mul]; omega
      rw [skip, List.getElem?_append_right (Nat.le_add_right ..), Nat.add_sub_cancel_left, ih, List.getElem?_cons_succ]

end

/-! ### bytes, bits and levels by their place (R33 to R36, R77) -/

theorem byteBits_length (b : Byte) : (byteBits b).length = 8 := rfl

theorem pixelBytes_length (p : Pixel) : (pixelBytes p).length = 3 := rfl

theorem pixelBytes_getElem? (p : Pixel) (b : WireByte) : (pixelBytes p)[b.bits.toNat]? = some (wireByte p b) := by
  cases b <;> rfl

/-- Most significant bit first. -/
theorem byteBits_getElem? (b : Byte) {i : Nat} (hi : i < 8) : (byteBits b)[7 - i]? = some (b.getLsbD i) := by
  interval_cases i <;> rfl

theorem cell_getElem? {p : Params} {b : Bool} {j : Nat} (hj : j < p.cellTicks) :
    (cell p b)[j]? = some (if j < highTicks p b then .high else .low) := by
  split
  · next h => rw [cell, List.getElem?_append_left (by simpa using h), List.getElem?_replicate_of_lt h]
  · next h =>
    rw [cell, List.getElem?_append_right (by simpa using h), List.getElem?_replicate_of_lt (by simp; omega)]

theorem frameBytes_length {s : State} (h : s.ledcnt.toNat ≤ s.pixels.length) : s.frameBytes.length = 3 * s.ledcnt.toNat := by
  rw [State.frameBytes, length_flatMap_of_length pixelBytes_length, List.length_take, Nat.min_eq_left h]

theorem frameBits_length {s : State} (h : s.ledcnt.toNat ≤ s.pixels.length) : s.frameBits.length = 24 * s.ledcnt.toNat := by
  rw [State.frameBits, length_flatMap_of_length byteBits_length, frameBytes_length h, ← Nat.mul_assoc]

theorem cells_length {p : Params} (h : p.legal = true) (bits : List Bool) :
    (cells p bits).length = p.cellTicks * bits.length :=
  length_flatMap_of_length (cell_length h) bits

/-- The bits of a byte sent are grouped back into the byte (R89). -/
theorem groupBytes_byteBits_append (b : Byte) (rest : List Bool) :
    groupBytes (byteBits b ++ rest) = b :: groupBytes rest := by
  refine congrArg (· :: groupBytes rest) (BitVec.eq_of_getLsbD_eq fun i hi => ?_)
  interval_cases i <;> simp only [BitVec.getLsbD_append, BitVec.getLsbD_ofBool] <;> simp

theorem groupBytes_flatMap_byteBits (bs : List Byte) : groupBytes (bs.flatMap byteBits) = bs := by
  induction bs with
  | nil => rfl
  | cons b bs ih => rw [List.flatMap_cons, groupBytes_byteBits_append, ih]

/-! ### the cursor's place in the frame (R81) -/

/-- The number of the bit under the cursor in the frame's order. -/
def Cursor.bitIndex (c : Cursor) : Nat := (c.pix.toNat * 3 + c.byte.bits.toNat) * 8 + (7 - c.bit.toNat)

theorem place_eq (p : Params) (c : Cursor) : c.place p = c.bitIndex * p.cellTicks + c.tick.toNat := rfl

theorem place_idle (p : Params) : Cursor.idle.place p = 0 := by simp [Cursor.place, Cursor.idle, WireByte.bits]

/-- The SHIFT ticks of a frame (R82). -/
def State.shiftTicks (s : State) : Nat := 24 * s.ledcnt.toNat * s.cfg.cellTicks

theorem wireByte_bits_le (b : WireByte) : b.bits.toNat ≤ 2 := by cases b <;> decide

theorem wireByte_bits_next {b b' : WireByte} (h : b.next? = some b') : b'.bits.toNat = b.bits.toNat + 1 := by
  cases b <;> cases h <;> rfl

theorem frameBits_at_bitIndex {s : State} {c : Cursor} {p : Pixel} (hc : c.pix.toNat < s.ledcnt.toNat)
    (hp : s.pixel? c.pix.toNat = some p) : s.frameBits[c.bitIndex]? = some (bitAt p c) := by
  have hbyte := wireByte_bits_le c.byte
  have hpix : (s.pixels.take s.ledcnt.toNat)[c.pix.toNat]? = some p := by rw [List.getElem?_take_of_lt hc]; exact hp
  have byte : s.frameBytes[c.pix.toNat * 3 + c.byte.bits.toNat]? = some (wireByte p c.byte) := by
    rw [State.frameBytes, getElem?_flatMap_of_length pixelBytes_length _ _ (by omega), hpix, Option.bind_some,
      pixelBytes_getElem?]
  rw [State.frameBits, Cursor.bitIndex, getElem?_flatMap_of_length byteBits_length _ _ (by omega), byte, Option.bind_some,
    byteBits_getElem? _ c.bit.isLt, bitAt]

section
variable {s : State} (hl : LegalState s) (hp : s.phase = .shift)
include hl hp

/-- A SHIFT tick's level is the entry of the frame's cells at the cursor's place. -/
theorem cells_at_place (hr : s.port.rst = false) : (cells s.cfg s.frameBits)[s.pc.place s.cfg]? = some s.level := by
  obtain ⟨hpix, htick⟩ := hl.onFrame hp
  have hx := pixel?_of_lt (hl.pix_lt hp)
  rw [place_eq, cells, getElem?_flatMap_of_length (cell_length hl.config) _ _ htick, frameBits_at_bitIndex hpix hx,
    Option.bind_some, cell_getElem? htick, level_of_shift hr (hl.doutOe_of_busy (by simp [hp])) hp hx]

theorem cells_length_eq_shiftTicks : (cells s.cfg s.frameBits).length = s.shiftTicks := by
  rw [cells_length hl.config, frameBits_length (hl.visible (hl.ready_of_busy (by simp [hp]))), Nat.mul_comm, State.shiftTicks]

theorem place_lt_shiftTicks : s.pc.place s.cfg < s.shiftTicks := by
  obtain ⟨hpix, htick⟩ := hl.onFrame hp
  have hbyte := wireByte_bits_le s.pc.byte
  have hbit : s.pc.bitIndex + 1 ≤ 24 * s.ledcnt.toNat := by rw [Cursor.bitIndex]; omega
  calc s.pc.place s.cfg < (s.pc.bitIndex + 1) * s.cfg.cellTicks := by rw [place_eq, Nat.succ_mul]; omega
    _ ≤ s.shiftTicks := Nat.mul_le_mul_right _ hbit

/-- The last place is the last of the frame's ticks. -/
theorem place_of_advance_none (ha : s.pc.advance s.cfg s.ledcnt = none) : s.pc.place s.cfg + 1 = s.shiftTicks := by
  obtain ⟨hpix, hbyte, hbit, htick⟩ := (advance_eq_none_iff hl hp).mp ha
  have hlast : s.pc.bitIndex + 1 = 24 * s.ledcnt.toNat := by
    simp only [Cursor.bitIndex, hbyte, hbit, WireByte.bits, BitVec.ofNat_eq_ofNat, BitVec.toNat_ofNat]
    omega
  rw [place_eq, State.shiftTicks, ← hlast, Nat.succ_mul]
  omega

theorem place_of_advance_some {c : Cursor} (ha : s.pc.advance s.cfg s.ledcnt = some c) :
    c.place s.cfg = s.pc.place s.cfg + 1 := by
  obtain ⟨hpix, htick⟩ := hl.onFrame hp
  have hled := (hl.count (hl.ready_of_busy (by simp [hp]))).2
  have nextBit {d : Cursor} (ht : s.cfg.cellTicks - 1 ≤ s.pc.tick.toNat) (hd : d.tick.toNat = 0)
      (hb : d.bitIndex = s.pc.bitIndex + 1) : d.place s.cfg = s.pc.place s.cfg + 1 := by
    rw [place_eq, place_eq, hb, hd, Nat.succ_mul]
    omega
  rcases advance_eq_some ha with ⟨ht, rfl⟩ | ⟨ht, hbit, rfl⟩ | ⟨ht, hbit, b, hb, rfl⟩ | ⟨ht, hbit, hblue, hnext, rfl⟩
  · simp only [place_eq, Cursor.bitIndex, tick_succ hl.config ht, Nat.add_assoc]
  · have hlt := s.pc.bit.isLt
    refine nextBit ht rfl ?_
    simp only [Cursor.bitIndex, bit_pred hbit]
    omega
  · refine nextBit ht rfl ?_
    simp only [Cursor.bitIndex, wireByte_bits_next hb, hbit, BitVec.ofNat_eq_ofNat, BitVec.toNat_ofNat]
    omega
  · have hpixNext := pix_succ hl.config (c := s.pc.pix) (by omega)
    refine nextBit ht rfl ?_
    rw [Cursor.bitIndex, Cursor.bitIndex, hpixNext, hblue, hbit]
    change ((s.pc.pix.toNat + 1) * 3 + 0) * 8 + (7 - 7) = (s.pc.pix.toNat * 3 + 2) * 8 + (7 - 0) + 1
    omega

end

/-! ### ticks of a frame in flight: the serializer's registers, the record of levels and the host are all that moves -/

/-- `t` comes after `s` in one frame, which has put `levels` on the wire since and has not been answered. -/
structure FrameRun (s : State) (levels : List Level) (t : State) : Prop where
  legal : LegalState t
  kept : t = { s with phase := t.phase, pc := t.pc, gapcnt := t.gapcnt, wireRev := t.wireRev, host := t.host }
  wire : t.wire = s.wire ++ levels
  host : ∀ a ∈ t.host, a ∈ s.host

namespace FrameRun

variable {s t u : State} {l l' : List Level}

theorem refl (h : LegalState s) : FrameRun s [] s := ⟨h, rfl, (List.append_nil _).symm, fun _ ha => ha⟩

theorem trans (h : FrameRun s l t) (h' : FrameRun t l' u) : FrameRun s (l ++ l') u where
  legal := h'.legal
  kept := h'.kept.trans (by rw [h.kept])
  wire := by rw [h'.wire, h.wire, List.append_assoc]
  host := fun a ha => h.host a (h'.host a ha)

/-- One tick in which the serializer writes nothing but its own registers. -/
theorem tick (hr : s.port.rst = false) (hp : s.phase ≠ .idle) (hu : serialize s = .next u) (hlegal : LegalState u)
    (hkept : u = { s with phase := u.phase, pc := u.pc, gapcnt := u.gapcnt }) :
    step s = .next (endTick s u) ∧ FrameRun s [s.level] (endTick s u) := by
  have ht := step_of_busy hr hp hu
  refine ⟨ht, hlegal.endTick s, ?_, step_appends_level ht, fun a ha => mem_of_mem_hostNext ha⟩
  rw [endTick_of_no_command (accepts_false_of_busy hp), hkept]

theorem noReset (h : FrameRun s l t) (hn : s.noReset) : t.noReset := fun a ha => hn a (h.host a ha)

theorem cfg (h : FrameRun s l t) : t.cfg = s.cfg := by rw [h.kept]
theorem rsps (h : FrameRun s l t) : t.rsps = s.rsps := by rw [h.kept]; rfl
theorem frameBits (h : FrameRun s l t) : t.frameBits = s.frameBits := by rw [h.kept]; rfl
theorem shiftTicks (h : FrameRun s l t) : t.shiftTicks = s.shiftTicks := by rw [h.kept]; rfl

end FrameRun

theorem cmdReady_of_busy {s : State} (h : s.phase ≠ .idle) : s.cmdReady = false :=
  Bool.eq_false_iff.mpr fun hc => h (cmdReady_iff.mp hc).2.1

theorem now_eq_wire_length (s : State) : s.now = s.wire.length := List.length_reverse.symm

/-- One more tick at the end of a run of ticks. -/
theorem ticks_succ {k : Nat} {s t : State} (h : ticks k s = .next t) : ticks (k + 1) s = step t :=
  (ticks_add h 1).trans (ticks_one t)

/-! ### one tick of the frame, and one of the gap (R81 to R83) -/

section
variable {s : State} (hl : LegalState s) (hr : s.port.rst = false)
include hl hr

theorem shift_tick (hp : s.phase = .shift) (hk : s.pc.place s.cfg + 1 < s.shiftTicks) :
    ∃ t, step s = .next t ∧ FrameRun s [s.level] t ∧ t.phase = .shift ∧ t.pc.place s.cfg = s.pc.place s.cfg + 1 := by
  have busy : s.phase ≠ .idle := by simp [hp]
  cases ha : s.pc.advance s.cfg s.ledcnt with
  | none =>
    have := place_of_advance_none hl hp ha
    omega
  | some c =>
    obtain ⟨hpix, htick⟩ := advance_onFrame hl hp ha
    have legal : LegalState { s with pc := c } := by
      simpa only [← hp] using hl.shiftAt (hl.ready_of_busy busy) (hl.gapcnt_zero (by simp [hp])) hpix htick
    obtain ⟨ht, run⟩ := FrameRun.tick hr busy (serialize_of_advance hl hp ha) legal rfl
    exact ⟨_, ht, run, hp, place_of_advance_some hl hp ha⟩

theorem shift_tick_last (hp : s.phase = .shift) (hk : s.pc.place s.cfg + 1 = s.shiftTicks) :
    ∃ t, step s = .next t ∧ FrameRun s [s.level] t ∧ t.phase = .gap ∧ t.gapcnt = 0 := by
  have busy : s.phase ≠ .idle := by simp [hp]
  have hreset := params_legal_iff.mp hl.config
  have legal := hl.gapAt (hl.ready_of_busy busy) (n := 0) (by simp; omega)
  cases ha : s.pc.advance s.cfg s.ledcnt with
  | none =>
    obtain ⟨ht, run⟩ := FrameRun.tick hr busy (serialize_of_lastPlace hl hp ha) legal rfl
    exact ⟨_, ht, run, rfl, rfl⟩
  | some c =>
    obtain ⟨hpix, htick⟩ := advance_onFrame hl hp ha
    have onFrame := place_lt_shiftTicks (hl.shiftAt (hl.ready_of_busy busy) (hl.gapcnt_zero (by simp [hp])) hpix htick) rfl
    have next := place_of_advance_some hl hp ha
    change c.place s.cfg < s.shiftTicks at onFrame
    omega

theorem gap_tick (hp : s.phase = .gap) (hk : s.gapcnt.toNat + 1 < s.cfg.resetTicks) :
    ∃ t, step s = .next t ∧ FrameRun s [.low] t ∧ t.phase = .gap ∧ t.gapcnt.toNat = s.gapcnt.toNat + 1 := by
  have busy : s.phase ≠ .idle := by simp [hp]
  have next := gapcnt_succ hl.config (c := s.gapcnt) (by omega)
  have legal : LegalState { s with gapcnt := s.gapcnt + 1 } := by
    simpa only [← hp, ← hl.pc_idle (show s.phase ≠ .shift by simp [hp])] using
      hl.gapAt (hl.ready_of_busy busy) (next.trans_lt hk)
  obtain ⟨ht, run⟩ := FrameRun.tick hr busy (serialize_of_gap_lt hp (by omega)) legal rfl
  rw [level_of_not_shift hr (hl.doutOe_of_busy busy) (by simp [hp])] at run
  exact ⟨_, ht, run, hp, next⟩

end

/-! ### the whole frame and the whole gap (R82, R83) -/

/-- A SHIFT tick at place `k` puts level `k` of the frame's cells on the wire. -/
theorem frameRun_take_succ {s t u : State} {k : Nat} (run : FrameRun s ((cells s.cfg s.frameBits).take k) t)
    (hr : t.port.rst = false) (hp : t.phase = .shift) (hk : t.pc.place t.cfg = k) (tickRun : FrameRun t [t.level] u) :
    FrameRun s ((cells s.cfg s.frameBits).take (k + 1)) u := by
  have level := cells_at_place run.legal hp hr
  rw [hk, run.cfg, run.frameBits] at level
  rw [List.take_add_one, level, Option.toList_some]
  exact run.trans tickRun

section
variable {s : State} (hl : LegalState s) (hn : s.noReset)
include hl hn

/-- `k` ticks into the frame its first `k` levels are on the wire. -/
theorem ticks_of_shift (hp : s.phase = .shift) (hc : s.pc = Cursor.idle) :
    ∀ k, k < s.shiftTicks → ∃ t, ticks k s = .next t ∧ FrameRun s ((cells s.cfg s.frameBits).take k) t
      ∧ t.phase = .shift ∧ t.pc.place t.cfg = k := by
  intro k
  induction k with
  | zero => exact fun _ => ⟨s, rfl, by simpa using FrameRun.refl hl, hp, hc ▸ place_idle _⟩
  | succ k ih =>
    intro hk
    obtain ⟨t, ht, run, hshift, hplace⟩ := ih (by omega)
    have hr := port_rst_of_noReset (run.noReset hn)
    obtain ⟨u, hu, tickRun, hshift', hplace'⟩ := shift_tick run.legal hr hshift (by rw [hplace, run.shiftTicks]; exact hk)
    exact ⟨u, (ticks_succ ht).trans hu, frameRun_take_succ run hr hshift hplace tickRun, hshift',
      by rw [tickRun.cfg, hplace', hplace]⟩

/-- After the frame's last tick all of its cells are on the wire and the gap begins. -/
theorem ticks_to_gap (hp : s.phase = .shift) (hc : s.pc = Cursor.idle) :
    ∃ t, ticks s.shiftTicks s = .next t ∧ FrameRun s (cells s.cfg s.frameBits) t ∧ t.phase = .gap ∧ t.gapcnt = 0 := by
  have notEmpty := place_lt_shiftTicks hl hp
  obtain ⟨k, hk⟩ : ∃ k, s.shiftTicks = k + 1 := ⟨s.shiftTicks - 1, by omega⟩
  obtain ⟨t, ht, run, hshift, hplace⟩ := ticks_of_shift hl hn hp hc k (by omega)
  have hr := port_rst_of_noReset (run.noReset hn)
  obtain ⟨u, hu, tickRun, hgap, hcount⟩ := shift_tick_last run.legal hr hshift (by rw [hplace, run.shiftTicks, hk])
  have run' := frameRun_take_succ run hr hshift hplace tickRun
  rw [← hk, ← cells_length_eq_shiftTicks hl hp, List.take_length] at run'
  exact ⟨u, hk ▸ (ticks_succ ht).trans hu, run', hgap, hcount⟩

/-- `k` ticks into the gap the line has been low for `k` ticks. -/
theorem ticks_of_gap (hp : s.phase = .gap) (hg : s.gapcnt = 0) :
    ∀ k, k < s.cfg.resetTicks → ∃ t, ticks k s = .next t ∧ FrameRun s (List.replicate k .low) t ∧ t.phase = .gap
      ∧ t.gapcnt.toNat = k := by
  intro k
  induction k with
  | zero => exact fun _ => ⟨s, rfl, FrameRun.refl hl, hp, by simp [hg]⟩
  | succ k ih =>
    intro hk
    obtain ⟨t, ht, run, hgap, hcount⟩ := ih (by omega)
    obtain ⟨u, hu, tickRun, hgap', hcount'⟩ :=
      gap_tick run.legal (port_rst_of_noReset (run.noReset hn)) hgap (by rw [hcount, run.cfg]; exact hk)
    refine ⟨u, (ticks_succ ht).trans hu, ?_, hgap', by rw [hcount', hcount]⟩
    rw [List.replicate_succ']
    exact run.trans tickRun

/-- Every tick from the frame's first to the gap's last starts with the frame unanswered. -/
theorem ticks_of_frame (hp : s.phase = .shift) (hc : s.pc = Cursor.idle) {k : Nat} (hk : k < s.shiftTicks + s.cfg.resetTicks) :
    ∃ t l, ticks k s = .next t ∧ FrameRun s l t ∧ t.phase = if k < s.shiftTicks then .shift else .gap := by
  split
  · next hlt =>
    obtain ⟨t, ht, run, hshift, _⟩ := ticks_of_shift hl hn hp hc k hlt
    exact ⟨t, _, ht, run, hshift⟩
  · next hge =>
    obtain ⟨g, rfl⟩ := Nat.exists_eq_add_of_le (Nat.not_lt.mp hge)
    obtain ⟨t, ht, run, hgap, hcount⟩ := ticks_to_gap hl hn hp hc
    obtain ⟨u, hu, gapRun, hgap', _⟩ :=
      ticks_of_gap run.legal (run.noReset hn) hgap hcount g (by rw [run.cfg]; omega)
    exact ⟨u, _, (ticks_add ht g).trans hu, run.trans gapRun, hgap'⟩

/-- The whole frame from its first SHIFT tick: its wave on the wire, `OK` answered in the gap's last tick, every register back
at its value outside a frame (R84, R86). -/
theorem ticks_to_answer (hp : s.phase = .shift) (hc : s.pc = Cursor.idle) :
    ∃ t, ticks (s.shiftTicks + s.cfg.resetTicks) s = .next t
      ∧ t.wire = s.wire ++ (cells s.cfg s.frameBits ++ List.replicate s.cfg.resetTicks .low)
      ∧ t.rsps = s.rsps ++ [⟨s.now + s.shiftTicks + (s.cfg.resetTicks - 1), .ok 0⟩]
      ∧ t = { s with phase := .idle, wireRev := t.wireRev, rspsRev := t.rspsRev, host := t.host }
      ∧ ∀ a ∈ t.host, a ∈ s.host := by
  have legalConfig := params_legal_iff.mp hl.config
  obtain ⟨g, hg⟩ : ∃ g, s.cfg.resetTicks = g + 1 := ⟨s.cfg.resetTicks - 1, by omega⟩
  obtain ⟨t, ht, toGap, hgap, hcount⟩ := ticks_to_gap hl hn hp hc
  obtain ⟨u, hu, inGap, hgap', hcount'⟩ :=
    ticks_of_gap toGap.legal (toGap.noReset hn) hgap hcount g (by rw [toGap.cfg]; omega)
  have run := toGap.trans inGap
  have hr := port_rst_of_noReset (run.noReset hn)
  have busy : u.phase ≠ .idle := by simp [hgap']
  have last := step_of_busy hr busy (serialize_of_gap_last hgap' (by rw [hcount', run.cfg]; omega))
  have hpc : u.pc = s.pc := (run.legal.pc_idle (by simp [hgap'])).trans hc.symm
  have hzero : s.gapcnt = 0 := hl.gapcnt_zero (by simp [hp])
  refine ⟨endTick u (respondOk 0 { u with gapcnt := 0, phase := .idle }), ?_, ?_, ?_, ?_,
    fun a ha => run.host a (mem_of_mem_hostNext ha)⟩
  · rw [hg]
    exact (ticks_succ ((ticks_add ht g).trans hu)).trans last
  · rw [step_appends_level last, level_of_not_shift hr (run.legal.doutOe_of_busy busy) (by simp [hgap']), run.wire, hg,
      List.replicate_succ']
    simp only [List.append_assoc]
  · have now : u.now = s.now + s.shiftTicks + g := by
      rw [now_eq_wire_length, run.wire, now_eq_wire_length]
      simp only [List.length_append, List.length_replicate, cells_length_eq_shiftTicks hl hp]
      omega
    rw [endTick_rsps, respondOk, respond_rsps]
    change u.rsps ++ [⟨u.now, .ok 0⟩] = _
    rw [run.rsps, now, hg, Nat.add_sub_cancel]
  · rw [endTick_of_no_command (accepts_false_of_busy busy), run.kept]
    simp [hpc, hzero, respondOk, respond]

end

/-! ### the state in which WRITE's accepting tick leaves the block (R76) -/

/-- The first SHIFT tick's state, after the tick that accepts WRITE in `s`. -/
def State.frameStart (s : State) : State := endTick s { s with phase := .shift, pc := Cursor.idle }

theorem frameStart_cfg (s : State) : s.frameStart.cfg = s.cfg := rfl
theorem frameStart_shiftTicks (s : State) : s.frameStart.shiftTicks = s.shiftTicks := rfl
theorem frameStart_frameBits (s : State) : s.frameStart.frameBits = s.frameBits := rfl
theorem frameStart_rsps (s : State) : s.frameStart.rsps = s.rsps := rfl
theorem frameStart_now (s : State) : s.frameStart.now = s.now + 1 := rfl
theorem frameStart_wire (s : State) : s.frameStart.wire = s.wire ++ [s.level] := endTick_wire _ _

theorem legalState_frameStart {s : State} (h : LegalState s) (hm : s.mode = .ready) (hp : s.phase = .idle) :
    LegalState s.frameStart :=
  (h.shiftAt hm (h.gapcnt_zero (by simp [hp])) (c := Cursor.idle) (h.count hm).1 h.cellTicks_pos).endTick s

theorem noReset_frameStart {s : State} (h : s.noReset) : s.frameStart.noReset := fun a ha => h a (mem_of_mem_hostNext ha)

/-! ### the two statements -/

/-- Settles O31: the run of the frame's ticks to the gap, and the grouping of its bits. -/
theorem shiftPutsTheFrameOnTheWire : Obligations.ShiftPutsTheFrameOnTheWire := by
  intro s hs hn hp hc
  have legal := inv_iff_legalState.mp hs
  refine ⟨fun k hk => ?_, ?_, frameBytes_length (legal.visible (legal.ready_of_busy (by simp [hp]))),
    groupBytes_flatMap_byteBits _⟩
  · obtain ⟨t, ht, _, hshift, _⟩ := ticks_of_shift legal hn hp hc k hk
    exact ⟨t, ht, hshift⟩
  · obtain ⟨t, ht, run, hgap, hcount⟩ := ticks_to_gap legal hn hp hc
    exact ⟨t, ht, hgap, run.legal.pc_idle (by simp [hgap]), hcount, run.wire⟩

/-- Settles O33: the accepting tick of WRITE, then the frame run to its answer. -/
theorem frameLaw : Obligations.FrameLaw := by
  intro s hs hn hm hp hv hw
  have legal := inv_iff_legalState.mp hs
  have hr := port_rst_of_noReset hn
  have ha : s.accepts = true := accepts_iff.mpr ⟨hv, cmdReady_iff.mpr ⟨by simp [hm], hp, hr⟩⟩
  have first : ticks 1 s = .next s.frameStart := (ticks_one s).trans (step_of_write ha hm hw)
  have started := legalState_frameStart legal hm hp
  have noReset := noReset_frameStart hn
  refine ⟨fun k hk1 hk => ?_, ?_⟩
  · obtain ⟨j, rfl⟩ := Nat.exists_eq_add_of_le hk1
    have hj : j < s.shiftTicks + s.cfg.resetTicks := by rw [State.shiftTicks]; omega
    obtain ⟨u, l, hu, run, hphase⟩ := ticks_of_frame started noReset rfl rfl hj
    have busy : u.phase ≠ .idle := by rw [hphase]; split <;> simp
    refine ⟨u, (ticks_add first j).trans hu, cmdReady_of_busy busy, run.rsps, hphase.trans (if_congr ?_ rfl rfl)⟩
    rw [frameStart_shiftTicks, State.shiftTicks]
    omega
  · obtain ⟨t, ht, hwire, hrsps, hkept, hhost⟩ := ticks_to_answer started noReset rfl rfl
    have hlast : s.now + 1 + 24 * s.ledcnt.toNat * s.cfg.cellTicks + (s.cfg.resetTicks - 1)
        = s.now + 24 * s.ledcnt.toNat * s.cfg.cellTicks + s.cfg.resetTicks := by
      have := params_legal_iff.mp legal.config
      omega
    refine ⟨t, ?_, ?_, ?_, ?_, cmdReady_iff.mpr ⟨?_, ?_, port_rst_of_noReset fun a h => noReset a (hhost a h)⟩⟩
    · rw [Nat.add_assoc]
      exact (ticks_add first _).trans ht
    · rw [hwire, frameStart_wire, level_of_not_shift hr (legal.driven.mpr hm) (by simp [hp])]
      simp only [frameStart_frameBits, frameStart_cfg, List.append_assoc]
    · rw [hrsps, frameStart_rsps, frameStart_now, frameStart_shiftTicks, frameStart_cfg, State.shiftTicks, hlast]
    · rw [hkept]
      simp [State.frameStart, ha, hw, hp, legal.pc_idle (show s.phase ≠ .shift by simp [hp])]
    · rw [hkept]
      simp [State.frameStart, hm]
    · rw [hkept]

end Sys2Proof.Machine
end

section
/-! PROOFS. The coordinate mapper (43_coordinate_mapper.md R93 to R97): the place of a column in the direction its row is
wired, in which the index and its inverse have one equation each; MAP on and off the grid; then the three statements. -/

namespace Sys2Proof.Machine

/-! ### the place of a column in its row -/

/-- How many cells of row `y` come before column `x` in the direction the row is wired: an odd row runs the other way. -/
def rowPlace (x y : Nat) : Nat := if y % 2 = 0 then x else 4 - x

theorem rowPlace_of_even {y : Nat} (h : y % 2 = 0) (x : Nat) : rowPlace x y = x := if_pos h

theorem rowPlace_of_odd {y : Nat} (h : y % 2 = 1) (x : Nat) : rowPlace x y = 4 - x := if_neg (by omega)

theorem rowPlace_le {x : Nat} (hx : x ≤ 4) (y : Nat) : rowPlace x y ≤ 4 := by
  rw [rowPlace]
  split <;> omega

/-- Turning a row round twice gives the column back. -/
theorem rowPlace_rowPlace {x : Nat} (hx : x ≤ 4) (y : Nat) : rowPlace (rowPlace x y) y = x := by
  rcases Nat.mod_two_eq_zero_or_one y with h | h
  · simp only [rowPlace_of_even h]
  · simp only [rowPlace_of_odd h]
    omega

/-! ### the index and its inverse -/

theorem mapIndex_eq (x y : Nat) : mapIndex x y = 24 - (5 * y + rowPlace x y) := by
  rw [mapIndex, rowPlace]
  split <;> rfl

theorem mapPosition_eq (idx : Nat) :
    mapPosition idx = (rowPlace ((24 - idx) % 5) ((24 - idx) / 5), (24 - idx) / 5) := rfl

/-- On the grid the formula never goes below zero, so the index can be added back (R98). -/
theorem mapIndex_add {x y : Nat} (hx : x ≤ 4) (hy : y ≤ 4) : mapIndex x y + (5 * y + rowPlace x y) = 24 := by
  have := rowPlace_le hx y
  rw [mapIndex_eq]
  omega

theorem mapIndex_le (x y : Nat) : mapIndex x y ≤ 24 := by
  rw [mapIndex_eq]
  omega

theorem mapPosition_onGrid {idx : Nat} : (mapPosition idx).1 ≤ 4 ∧ (mapPosition idx).2 ≤ 4 := by
  rw [mapPosition_eq]
  exact ⟨rowPlace_le (by omega) _, by dsimp only; omega⟩

theorem mapPosition_mapIndex {x y : Nat} (hx : x ≤ 4) (hy : y ≤ 4) : mapPosition (mapIndex x y) = (x, y) := by
  have place := rowPlace_le hx y
  have back : 24 - mapIndex x y = 5 * y + rowPlace x y := by
    have := mapIndex_add hx hy
    omega
  have row : (5 * y + rowPlace x y) / 5 = y := by omega
  have column : (5 * y + rowPlace x y) % 5 = rowPlace x y := by omega
  rw [mapPosition_eq, back, row, column, rowPlace_rowPlace hx]

theorem mapIndex_mapPosition {idx : Nat} (h : idx ≤ 24) :
    mapIndex (mapPosition idx).1 (mapPosition idx).2 = idx := by
  have place : (24 - idx) % 5 ≤ 4 := by omega
  rw [mapPosition_eq, mapIndex_eq, rowPlace_rowPlace place]
  omega

/-- On the grid a position has one index only: the inverse takes it back. -/
theorem mapIndex_injective {x y x' y' : Nat} (hx : x ≤ 4) (hy : y ≤ 4) (hx' : x' ≤ 4) (hy' : y' ≤ 4)
    (h : mapIndex x y = mapIndex x' y') : x = x' ∧ y = y' := by
  have : (x, y) = (x', y') := by rw [← mapPosition_mapIndex hx hy, h, mapPosition_mapIndex hx' hy']
  simpa using this

theorem mapIndex_mem_row {x y : Nat} (hx : x ≤ 4) (hy : y ≤ 4) :
    20 - 5 * y ≤ mapIndex x y ∧ mapIndex x y ≤ 24 - 5 * y := by
  have := mapIndex_add hx hy
  have := rowPlace_le hx y
  omega

/-! ### the serpentine -/

theorem mapIndex_falls_of_even {x y : Nat} (hx : x < 4) (hy : y ≤ 4) (h : y % 2 = 0) :
    mapIndex x y = mapIndex (x + 1) y + 1 := by
  rw [mapIndex_eq, mapIndex_eq, rowPlace_of_even h, rowPlace_of_even h]
  omega

theorem mapIndex_rises_of_odd {x y : Nat} (hx : x < 4) (hy : y ≤ 4) (h : y % 2 = 1) :
    mapIndex (x + 1) y = mapIndex x y + 1 := by
  rw [mapIndex_eq, mapIndex_eq, rowPlace_of_odd h, rowPlace_of_odd h]
  omega

/-- An even row is left at its end `x = 4`, where the next row, an odd one, begins. -/
theorem mapIndex_turn_of_even {y : Nat} (hy : y < 4) (h : y % 2 = 0) : mapIndex 4 y = mapIndex 4 (y + 1) + 1 := by
  have hnext : (y + 1) % 2 = 1 := by omega
  rw [mapIndex_eq, mapIndex_eq, rowPlace_of_even h, rowPlace_of_odd hnext]
  omega

/-- An odd row is left at its end `x = 0`, where the next row, an even one, begins. -/
theorem mapIndex_turn_of_odd {y : Nat} (hy : y < 4) (h : y % 2 = 1) : mapIndex 0 y = mapIndex 0 (y + 1) + 1 := by
  have hnext : (y + 1) % 2 = 0 := by omega
  rw [mapIndex_eq, mapIndex_eq, rowPlace_of_odd h, rowPlace_of_even hnext]
  omega

/-- The position `p` is one column beside `q` in its row, or in `q`'s column in the next row. -/
def FollowsOnPanel (p q : Nat × Nat) : Prop :=
  (p.2 = q.2 ∧ (p.1 = q.1 + 1 ∨ q.1 = p.1 + 1)) ∨ (p.1 = q.1 ∧ p.2 = q.2 + 1)

/-- The cell whose index is one less is reached along the row, or at its end by the turn into the next row. -/
theorem exists_follower {x y idx : Nat} (hx : x ≤ 4) (hy : y ≤ 4) (h : mapIndex x y = idx + 1) :
    ∃ x' y', x' ≤ 4 ∧ y' ≤ 4 ∧ mapIndex x' y' = idx ∧ FollowsOnPanel (x', y') (x, y) := by
  have place := mapIndex_add hx hy
  rcases Nat.mod_two_eq_zero_or_one y with even | odd
  · rcases Nat.lt_or_eq_of_le hx with inRow | rfl
    · have := mapIndex_falls_of_even inRow hy even
      exact ⟨x + 1, y, inRow, hy, by omega, .inl ⟨rfl, .inl rfl⟩⟩
    · rw [rowPlace_of_even even] at place
      have hlast : y < 4 := by omega
      have := mapIndex_turn_of_even hlast even
      exact ⟨4, y + 1, hx, hlast, by omega, .inr ⟨rfl, rfl⟩⟩
  · rcases x with _ | x
    · have hlast : y < 4 := by omega
      have := mapIndex_turn_of_odd hlast odd
      exact ⟨0, y + 1, hx, hlast, by omega, .inr ⟨rfl, rfl⟩⟩
    · have := mapIndex_rises_of_odd hx hy odd
      exact ⟨x, y, by omega, hy, by omega, .inl ⟨rfl, .inr rfl⟩⟩

/-- Consecutive LEDs along the wire are neighbours on the panel (R97). -/
theorem mapPosition_follows {idx : Nat} (h : idx < 24) : FollowsOnPanel (mapPosition idx) (mapPosition (idx + 1)) := by
  have ⟨hx, hy⟩ := mapPosition_onGrid (idx := idx + 1)
  obtain ⟨x', y', hx', hy', rfl, hfollows⟩ := exists_follower hx hy (mapIndex_mapPosition h)
  rwa [mapPosition_mapIndex hx' hy']

/-! ### MAP, on the grid and off it -/

theorem coordOut_iff {x y : BitVec 3} : coordOut x y = true ↔ 4 < x.toNat ∨ 4 < y.toNat := by simp [coordOut]

/-- On the grid MAP answers the index, which the 24 data bits hold (R93). -/
theorem exec_map_of_onGrid {s : State} (h : s.cmdReady = true) {x y : BitVec 3} (hx : x.toNat ≤ 4) (hy : y.toNat ≤ 4) :
    ∃ d : BitVec 24, exec (.map x y) s = .next (respond (.ok d) s) ∧ d.toNat = mapIndex x.toNat y.toNat := by
  have onGrid : ¬ coordOut x y = true := by rw [coordOut_iff]; omega
  have fits := mapIndex_le x.toNat y.toNat
  refine ⟨BitVec.ofNat 24 (mapIndex x.toNat y.toNat), ?_, Nat.mod_eq_of_lt (by omega)⟩
  rw [exec, execMap, ifReady_of_cmdReady h, if_neg onGrid, respondOk]

/-- Off the grid MAP answers the fault, and the formula is not evaluated (R94, R103). -/
theorem exec_map_of_offGrid {s : State} (h : s.cmdReady = true) {x y : BitVec 3} (hxy : 4 < x.toNat ∨ 4 < y.toNat) :
    exec (.map x y) s = .next (respond (.fault (.coordRange x y)) s) := by
  rw [exec, execMap, ifReady_of_cmdReady h, if_pos (coordOut_iff.mpr hxy), raise,
    takeFault_eq_respond (modeAfter_coordRange x y _)]

/-! ### the table (R96) -/

/-- Rows are `y`, columns are `x`. -/
def indexTable : List (List Nat) :=
  [[24, 23, 22, 21, 20], [15, 16, 17, 18, 19], [14, 13, 12, 11, 10], [5, 6, 7, 8, 9], [4, 3, 2, 1, 0]]

/-- The formula, evaluated in row order, fills the table. -/
theorem indexTable_eq_map_mapIndex :
    indexTable = (List.range 5).map (fun y => (List.range 5).map (fun x => mapIndex x y)) := by decide

theorem indexTable_getElem? {x y : Nat} (hx : x ≤ 4) (hy : y ≤ 4) :
    indexTable[y]?.bind (·[x]?) = some (mapIndex x y) := by
  rw [indexTable_eq_map_mapIndex]
  simp [Nat.lt_succ_of_le hx, Nat.lt_succ_of_le hy]

/-! ### the three statements -/

/-- Settles O23: MAP answers the formula's value, and the table's entries are those values. -/
theorem mapTable : Obligations.MapTable := by
  refine ⟨fun s x y h hx hy => ?_, by decide⟩
  obtain ⟨d, answers, index⟩ := exec_map_of_onGrid h hx hy
  exact ⟨d, answers, index ▸ indexTable_getElem? hx hy⟩

/-- Settles O24: the fault of an operand off the grid, and its response word by its code. -/
theorem mapOffTheGridFaults : Obligations.MapOffTheGridFaults := fun _ _ _ h hxy =>
  ⟨exec_map_of_offGrid h hxy, faultWord_of_code (c := 4) rfl (by decide)⟩

/-- Settles O25: one to one and onto by the inverse, the serpentine by the place in the row. -/
theorem mapperLaws : Obligations.MapperLaws :=
  ⟨fun x y _ _ => mapIndex_le x y,
    fun _ _ _ _ => mapIndex_injective,
    fun _ h => ⟨_, _, mapPosition_onGrid.1, mapPosition_onGrid.2, mapIndex_mapPosition h⟩,
    fun _ _ => mapIndex_mem_row,
    fun _ _ => mapIndex_falls_of_even,
    fun _ _ => mapIndex_rises_of_odd,
    fun _ => mapIndex_turn_of_even,
    fun _ => mapIndex_turn_of_odd,
    fun _ _ => mapPosition_mapIndex,
    fun _ => mapIndex_mapPosition,
    fun _ => mapPosition_follows,
    rfl, rfl⟩

end Sys2Proof.Machine
end

section
/-! PROOFS. The exceptions (60_exceptions.md R102, R104, R105): what INIT answers in UNINIT and what SETPIX and RDPIX answer
out of range, the ticks of a block in FATAL, then the three statements. -/

namespace Sys2Proof.Machine

/-! ### INIT accepted in UNINIT, check by check in the order of R106 -/

theorem countBad_eq_true_iff {n : BitVec 8} {s : State} :
    countBad n s = true ↔ n.toNat = 0 ∨ s.cfg.nMax < n.toNat := by
  simp [countBad]

section
variable {s : State} (h : s.cmdReady = true) (hm : s.mode = .uninit) (pin : Pin) {n : BitVec 8}
include h hm

/-- The count is looked at before the timing resource (R105). -/
theorem exec_init_of_countBad (hn : countBad n s = true) :
    exec (.init pin n) s = .next (respond (.fault (.configError n)) s) := by
  rw [exec, execInit, ifReady_of_cmdReady h, if_neg (not_not.mpr hm), if_pos hn, raise,
    takeFault_eq_respond (modeAfter_configError n _)]

theorem exec_init_of_no_timingResource (hn : countBad n s = false) (ht : s.port.tgAvail = false) :
    exec (.init pin n) s = .next (takeFault .noTimingResource s) := by
  rw [exec, execInit, ifReady_of_cmdReady h, if_neg (not_not.mpr hm), hn, ht]
  rfl

theorem exec_init_of_timingResource (hn : countBad n s = false) (ht : s.port.tgAvail = true) :
    exec (.init pin n) s
      = .next (respondOk 0 { s with ledcnt := n, pinsel := pin, doutOe := true, mode := .ready }) := by
  rw [exec, execInit, ifReady_of_cmdReady h, if_neg (not_not.mpr hm), hn, ht]
  rfl

end

/-! ### an index out of range, whatever registers the buffer has (R102) -/

section
variable {s : State} (h : s.cmdReady = true) (hm : s.mode = .ready) {index : BitVec 5} (hi : indexOut index s = true)
include h hm hi

theorem exec_setpix_of_indexOut (r g b : Byte) :
    exec (.setpix index r g b) s = .next (respond (.fault (.indexRange index)) s) := by
  rw [exec, execSetpix, ifReady_of_cmdReady h, if_neg (not_not.mpr hm), if_pos hi, raise,
    takeFault_eq_respond (modeAfter_indexRange index _)]

theorem exec_rdpix_of_indexOut : exec (.rdpix index) s = .next (respond (.fault (.indexRange index)) s) := by
  rw [exec, execRdpix, ifReady_of_cmdReady h, if_neg (not_not.mpr hm), if_pos hi, raise,
    takeFault_eq_respond (modeAfter_indexRange index _)]

end

/-! ### a block in FATAL (R104, R112) -/

theorem cmdReady_of_fatal {s : State} (hm : s.mode = .fatal) : s.cmdReady = false :=
  Bool.eq_false_iff.mpr fun hc => (cmdReady_iff.mp hc).1 hm

/-- With no reset and the line not driven, a tick of an idle block in FATAL only ends: `Z` goes on the record and the host
moves on. -/
theorem step_of_fatal {s : State} (hm : s.mode = .fatal) (hp : s.phase = .idle) (hd : s.doutOe = false)
    (hr : s.port.rst = false) : step s = .next { s with wireRev := .z :: s.wireRev, host := s.hostNext } := by
  have refuses := accepts_false_of_fatal hm
  rw [step_of_idle hr refuses hp, endTick_of_no_command refuses, level_of_not_driven hd]

/-- Any number of such ticks, the acts left being among those that were to come. -/
theorem ticks_of_fatal {s : State} (hm : s.mode = .fatal) (hp : s.phase = .idle) (hd : s.doutOe = false)
    (hn : s.noReset) (k : Nat) :
    ∃ acts, (∀ a ∈ acts, a ∈ s.host)
      ∧ ticks k s = .next { s with wireRev := List.replicate k .z ++ s.wireRev, host := acts } := by
  induction k with
  | zero => exact ⟨s.host, fun _ ha => ha, rfl⟩
  | succ k ih =>
    obtain ⟨acts, left, run⟩ := ih
    refine ⟨_, fun a ha => left a (mem_of_mem_hostNext ha), (ticks_succ run).trans (step_of_fatal hm hp hd ?_)⟩
    exact port_rst_of_noReset fun a ha => hn a (left a ha)

/-- Only reset leaves FATAL. -/
theorem step_keeps_fatal {s t : State} (hm : s.mode = .fatal) (hr : s.port.rst = false) (h : step s = .next t) :
    t.mode = .fatal :=
  (step_keeps_setup hr (fun _ hu => by simp [hm] at hu) h).mode.trans hm

/-! ### the three statements -/

/-- Settles O13: INIT's last check, the run of FATAL ticks written out, and that a tick without reset keeps FATAL. -/
theorem noTimingResourceIsFatal : Obligations.NoTimingResourceIsFatal := by
  refine ⟨fun s pin n h hm hlow hhigh ht => ?_, faultWord_of_code (c := 6) rfl (by decide), fun s hs hm hn k => ?_,
    fun s t h hm hleft => ?_⟩
  · exact exec_init_of_no_timingResource h hm pin (countBad_eq_false_iff.mpr ⟨hlow, hhigh⟩) ht
  · have legal := inv_iff_legalState.mp hs
    have notReady : s.mode ≠ .ready := by simp [hm]
    have idle := legal.idle_of_not_ready notReady
    have undriven := legal.doutOe_of_not_ready notReady
    obtain ⟨acts, _, run⟩ := ticks_of_fatal hm idle undriven hn k
    refine ⟨_, run, hm, cmdReady_of_fatal hm, ?_, undriven, rfl, ?_, rfl, rfl, rfl, idle⟩
    · simp [State.fatalOut, hm]
    · simp [State.wire]
  · by_contra hr
    exact hleft (step_keeps_fatal hm (Bool.eq_false_iff.mpr hr) h)

/-- Settles O12: the fault of a bad count leaves the block as INIT needs it, and then a good count is taken. -/
theorem badCountIsConfigError : Obligations.BadCountIsConfigError := by
  intro s pin n h hm hn
  refine ⟨exec_init_of_countBad h hm pin (countBad_eq_true_iff.mpr hn), fun pin' n' hlow hhigh ht => ?_⟩
  have good : countBad n' s = false := countBad_eq_false_iff.mpr ⟨hlow, hhigh⟩
  exact ⟨_, exec_init_of_timingResource (s := respond (.fault (.configError n)) s) h hm pin' good ht, rfl, rfl⟩

/-- Settles O19: the range check comes before any access, and the response word is the fault's code. -/
theorem indexOutOfRangeFaults : Obligations.IndexOutOfRangeFaults := by
  intro s index r g b h hm hle
  have out : indexOut index s = true := decide_eq_true hle
  exact ⟨exec_setpix_of_indexOut h hm out r g b, exec_rdpix_of_indexOut h hm out,
    faultWord_of_code (c := 3) rfl (by decide)⟩

end Sys2Proof.Machine
end

section
/-! PROOFS. Reset (70_reset_and_hazards.md R116): the signals and the level of a tick with `RST = 1`, the pixel registers
after it, the mode without it; then the statement. -/

namespace Sys2Proof.Machine

/-! ### a tick with `RST = 1` -/

theorem cmdReady_of_rst {s : State} (h : s.port.rst = true) : s.cmdReady = false := by
  simp [State.cmdReady, h]

theorem accepts_of_not_cmdReady {s : State} (h : s.cmdReady = false) : s.accepts = false := by
  simp [State.accepts, h]

theorem level_of_rst {s : State} (h : s.port.rst = true) : s.level = .z := if_pos h

/-- Every register the configuration has is there after a reset, with the content of that reset (log 2). -/
theorem resetBlock_pixel? {s : State} {i : Nat} (h : i < s.cfg.nMax) :
    (resetBlock s).pixel? i = some (Config.resetPixel (s.resets + 1) i) :=
  resetPixels_getElem? h

/-! ### a tick without it -/

/-- Past UNINIT no command writes `MODE`: INIT's faults and its success are all behind its check of the mode. -/
theorem step_keeps_mode_of_not_uninit {s t : State} (hm : s.mode ≠ .uninit) (hr : s.port.rst = false)
    (h : step s = .next t) : t.mode = s.mode :=
  (step_keeps_setup hr (fun _ hu => absurd hu hm) h).mode

/-- Settles O43: a reset tick is `resetBlock` under the level `Z`, and without reset a mode past UNINIT stays. -/
theorem resetTick : Obligations.ResetTick := by
  refine ⟨fun s hr => ?_, fun s t h hr => ⟨fun hm => step_keeps_fatal hm hr h, fun hm => ?_⟩⟩
  · have notReady : s.cmdReady = false := cmdReady_of_rst hr
    have pixels : ∀ i, i < s.cfg.nMax → ((endTick s (resetBlock s)).pixel? i).isSome = true := fun i hi =>
      Option.isSome_of_eq_some (resetBlock_pixel? hi)
    have wire : (endTick s (resetBlock s)).wire = s.wire ++ [.z] := by
      rw [endTick_wire, level_of_rst hr]
      rfl
    exact ⟨notReady, accepts_of_not_cmdReady notReady, _, step_of_rst hr, rfl, rfl, rfl, rfl, rfl, rfl, rfl, pixels, rfl,
      wire⟩
  · rw [step_keeps_mode_of_not_uninit hm hr h]
    exact hm

end Sys2Proof.Machine
end

section
/-! PROOFS. The encoding both ways (30_encoding.md R51 to R57): a field read back where it was placed, a field placed where it
was read; then the three statements. -/

namespace Sys2Proof

/-! ### a field read from the word it is placed in -/

@[simp] theorem extractLsb'_fieldAt_same {k lo : Nat} (v : BitVec k) (h : lo + k ≤ Config.cmdBits) :
    (fieldAt v lo).extractLsb' lo k = v := by
  apply BitVec.eq_of_getLsbD_eq
  intro i hi
  rw [BitVec.getLsbD_extractLsb', getLsbD_fieldAt v lo (by omega)]
  simp [hi]

@[simp] theorem extractLsb'_fieldAt_apart {k lo n start : Nat} (v : BitVec k) (hn : start + n ≤ Config.cmdBits)
    (h : lo + k ≤ start ∨ start + n ≤ lo) : (fieldAt v lo).extractLsb' start n = 0#n := by
  apply BitVec.eq_of_getLsbD_eq
  intro i hi
  rw [BitVec.getLsbD_extractLsb', getLsbD_fieldAt v lo (by omega), BitVec.getLsbD_zero]
  rcases h with below | above
  · simp [BitVec.getLsbD_of_ge v (start + i - lo) (by omega)]
  · simp [show ¬ lo ≤ start + i by omega]

/-! ### a field placed where it was read -/

theorem fieldAt_extractLsb' (w : Word) (n lo : Nat) : fieldAt (w.extractLsb' lo n) lo = w &&& fieldMask n lo := by
  apply BitVec.eq_of_getLsbD_eq
  intro i hi
  rw [getLsbD_fieldAt _ lo hi, BitVec.getLsbD_and, getLsbD_fieldMask hi, BitVec.getLsbD_extractLsb']
  by_cases h : lo ≤ i
  · have inField : i - lo < n ↔ i < lo + n := by omega
    simp [h, inField, Bool.and_comm]
  · simp [h]

/-- A word of a row is the row's opcode with the bits the row leaves free. -/
theorem opcode_or_free {row : OpRow} {w : Word} (h : row.hits w = true) (op : BitVec 3) (free : Word)
    (hop : row.pattern = fieldAt op 29) (hfree : row.mask ||| free = BitVec.allOnes Config.cmdBits) :
    fieldAt op 29 ||| (w &&& free) = w := by
  rw [← hop, ← hits_iff.mp h, ← BitVec.and_or_distrib_left, hfree, BitVec.and_allOnes]

/-! ### the statements -/

/-- Settles O1: the word matches its command's row, and each operand is read from where it was placed. -/
theorem decodeEncodeRoundTrip : Obligations.DecodeEncodeRoundTrip := by
  intro i
  cases i with
  | init pin n => simpa [encode, BitVec.extractLsb'_or] using decode_of_rowInit_hits (Laws.RowMatch.init pin n)
  | clear => exact decode_of_rowClear_hits Laws.RowMatch.clear
  | setpix i r g b =>
    simpa [encode, BitVec.extractLsb'_or] using decode_of_rowSetpix_hits (Laws.RowMatch.setpix i r g b)
  | write => exact decode_of_rowWrite_hits Laws.RowMatch.write
  | map x y => simpa [encode, BitVec.extractLsb'_or] using decode_of_rowMap_hits (Laws.RowMatch.map x y)
  | rdpix i => simpa [encode, BitVec.extractLsb'_or] using decode_of_rowRdpix_hits (Laws.RowMatch.rdpix i)
  | rdstat => exact decode_of_rowRdstat_hits Laws.RowMatch.rdstat

/-- Settles O2: the opcode and the must-be-zero bits are the row's, and every other bit is in an operand. -/
theorem encodeDecodeRoundTrip : Obligations.EncodeDecodeRoundTrip := by
  intro w i h
  have hits := hits_of_decode h
  cases i with
  | init pin n =>
    cases (decode_of_rowInit_hits hits).symm.trans h
    have whole := opcode_or_free (row := rowInit) hits 1 (fieldMask 8 8 ||| fieldMask 8 0) rfl (by decide)
    simpa [encode, fieldAt_extractLsb', BitVec.and_or_distrib_left, BitVec.or_assoc] using whole
  | clear => simpa [encode] using opcode_or_free hits 2 0 rfl (by decide)
  | setpix i r g b =>
    cases (decode_of_rowSetpix_hits hits).symm.trans h
    have whole := opcode_or_free (row := rowSetpix) hits 3
      (fieldMask 5 24 ||| (fieldMask 8 16 ||| (fieldMask 8 8 ||| fieldMask 8 0))) rfl (by decide)
    simpa [encode, fieldAt_extractLsb', BitVec.and_or_distrib_left, BitVec.or_assoc] using whole
  | write => simpa [encode] using opcode_or_free hits 4 0 rfl (by decide)
  | map x y =>
    cases (decode_of_rowMap_hits hits).symm.trans h
    have whole := opcode_or_free (row := rowMap) hits 5 (fieldMask 3 3 ||| fieldMask 3 0) rfl (by decide)
    simpa [encode, fieldAt_extractLsb', BitVec.and_or_distrib_left, BitVec.or_assoc] using whole
  | rdpix i =>
    cases (decode_of_rowRdpix_hits hits).symm.trans h
    simpa [encode, fieldAt_extractLsb'] using opcode_or_free (row := rowRdpix) hits 6 (fieldMask 5 24) rfl (by decide)
  | rdstat => simpa [encode] using opcode_or_free hits 7 0 rfl (by decide)

/-- Settles O6: nine closed words, decoded. -/
theorem specWordsDecode : Obligations.SpecWordsDecode := by
  unfold Obligations.SpecWordsDecode
  decide

end Sys2Proof
end

section
/-! PROOFS. What a command does, once for all of them (40_driver_control.md R65 to R69, 60_exceptions.md R106, R107): the
effects an accepted command can have as one case list, then what each command leaves unchanged and the statements about it. -/

namespace Sys2Proof.Machine

/-! ### the effects of an accepted command -/

/-- From `s` the accepted command leads to the state: one constructor per way to complete. -/
inductive Effect (s : State) : Instr → State → Prop
  /-- A fault that leaves the mode; it is `StateError` exactly when the mode does not permit the command (R69). -/
  | fault {c : Instr} {f : CmdFault} (hf : f ≠ .noTimingResource)
      (hp : f = .stateError s.mode ↔ permitted c s.mode = false) : Effect s c (respond (.fault f) s)
  | noTimingResource {pin : Pin} {n : BitVec 8} (hm : s.mode = .uninit) :
      Effect s (.init pin n) (takeFault .noTimingResource s)
  | init {pin : Pin} {n : BitVec 8} (hm : s.mode = .uninit) (hn : countBad n s = false) :
      Effect s (.init pin n)
        (respondOk 0 { s with ledcnt := n, pinsel := pin, doutOe := true, mode := .ready })
  | clear (hm : s.mode = .ready) :
      Effect s .clear (respondOk 0 { s with pixels := clearBelow s.ledcnt.toNat s.pixels })
  | setpix {i : BitVec 5} {r g b : Byte} (hm : s.mode = .ready) (hi : i.toNat < s.ledcnt.toNat)
      (hx : i.toNat < s.pixels.length) :
      Effect s (.setpix i r g b) (respondOk 0 { s with pixels := s.pixels.set i.toNat (packRgb r g b) })
  | write (hm : s.mode = .ready) : Effect s .write { s with phase := .shift, pc := Cursor.idle }
  | map {x y : BitVec 3} {d : BitVec 24} (hm : s.mode ≠ .fatal) : Effect s (.map x y) (respondOk d s)
  | rdpix {i : BitVec 5} {d : BitVec 24} (hm : s.mode = .ready) : Effect s (.rdpix i) (respondOk d s)
  | rdstat {d : BitVec 24} (hm : s.mode ≠ .fatal) : Effect s .rdstat (respondOk d s)

theorem Effect.stateError {s : State} {c : Instr} (hp : permitted c s.mode = false) :
    Effect s c (takeFault (.stateError s.mode) s) :=
  takeFault_eq_respond (modeAfter_stateError _ _) ▸ .fault nofun (by simp [hp])

/-- Everything a command can do when it answers a next state: nothing while the block is not ready, else one of its
effects. -/
theorem exec_eq_next {c : Instr} {s t : State} (h : exec c s = .next t) :
    (s.cmdReady = false ∧ t = s) ∨ (s.cmdReady = true ∧ Effect s c t) := by
  cases c with
  | init pin n =>
    rcases execInit_eq_next h with hn | ⟨hc, hm, rfl⟩ | ⟨hc, hm, _, rfl⟩ | ⟨hc, hm, _, _, rfl⟩ | ⟨hc, hm, hn, _, rfl⟩
    · exact .inl hn
    · exact .inr ⟨hc, .stateError (by simpa [permitted] using hm)⟩
    · refine .inr ⟨hc, takeFault_eq_respond (modeAfter_configError n _) ▸ .fault nofun ?_⟩
      simp [permitted, hm]
    · exact .inr ⟨hc, .noTimingResource hm⟩
    · exact .inr ⟨hc, .init hm hn⟩
  | clear =>
    rcases execClear_eq_next h with hn | ⟨hc, hm, rfl⟩ | ⟨hc, hm, _, rfl⟩
    · exact .inl hn
    · exact .inr ⟨hc, .stateError (by simpa [permitted] using hm)⟩
    · exact .inr ⟨hc, .clear hm⟩
  | setpix i r g b =>
    rcases execSetpix_eq_next h with hn | ⟨hc, hm, rfl⟩ | ⟨hc, hm, _, rfl⟩ | ⟨hc, hm, hi, hx, rfl⟩
    · exact .inl hn
    · exact .inr ⟨hc, .stateError (by simpa [permitted] using hm)⟩
    · refine .inr ⟨hc, takeFault_eq_respond (modeAfter_indexRange i _) ▸ .fault nofun ?_⟩
      simp [permitted, hm]
    · exact .inr ⟨hc, .setpix hm hi hx⟩
  | write =>
    rcases execWrite_eq_next h with hn | ⟨hc, hm, rfl⟩ | ⟨hc, hm, rfl⟩
    · exact .inl hn
    · exact .inr ⟨hc, .stateError (by simpa [permitted] using hm)⟩
    · exact .inr ⟨hc, .write hm⟩
  | map x y =>
    rcases execMap_eq_next h with hn | ⟨hc, _, rfl⟩ | ⟨hc, _, rfl⟩
    · exact .inl hn
    · refine .inr ⟨hc, takeFault_eq_respond (modeAfter_coordRange x y _) ▸ .fault nofun ?_⟩
      simp [permitted, (cmdReady_iff.mp hc).1]
    · exact .inr ⟨hc, .map (cmdReady_iff.mp hc).1⟩
  | rdpix i =>
    rcases execRdpix_eq_next h with hn | ⟨hc, hm, rfl⟩ | ⟨hc, hm, _, rfl⟩ | ⟨hc, hm, _, p, _, rfl⟩
    · exact .inl hn
    · exact .inr ⟨hc, .stateError (by simpa [permitted] using hm)⟩
    · refine .inr ⟨hc, takeFault_eq_respond (modeAfter_indexRange i _) ▸ .fault nofun ?_⟩
      simp [permitted, hm]
    · exact .inr ⟨hc, .rdpix hm⟩
  | rdstat =>
    rcases execRdstat_eq_next h with hn | ⟨hc, rfl⟩
    · exact .inl hn
    · exact .inr ⟨hc, .rdstat (cmdReady_iff.mp hc).1⟩

/-! ### a command that is not accepted, and one the mode does not permit (R64, R69) -/

theorem ifReady_of_not_cmdReady {s : State} (h : s.cmdReady = false) (body : Out) : ifReady s body = .next s :=
  if_neg (by simp [h])

theorem exec_of_not_cmdReady {s : State} (h : s.cmdReady = false) (c : Instr) : exec c s = .next s := by
  cases c <;> exact ifReady_of_not_cmdReady h _

theorem command_of_not_cmdReady {s : State} (h : s.cmdReady = false) (w : Word) : command w s = .next s := by
  unfold command
  split
  · exact exec_of_not_cmdReady h _
  · exact ifReady_of_not_cmdReady h _

/-- The mode check of a command that only READY permits. -/
theorem ifReady_of_not_ready {s : State} (h : s.cmdReady = true) (hm : s.mode ≠ .ready) (body : Out) :
    ifReady s (if s.mode ≠ .ready then raise (.stateError s.mode) s else body)
      = .next (respond (.fault (.stateError s.mode)) s) := by
  rw [ifReady_of_cmdReady h, if_pos hm, raise, takeFault_eq_respond (modeAfter_stateError _ _)]

theorem exec_of_not_permitted {c : Instr} {s : State} (h : s.cmdReady = true) (hp : permitted c s.mode = false) :
    exec c s = .next (respond (.fault (.stateError s.mode)) s) := by
  have notFatal := (cmdReady_iff.mp h).1
  cases c with
  | init pin n => exact exec_init_of_not_uninit h (by simpa [permitted] using hp) pin n
  | clear => exact ifReady_of_not_ready h (by simpa [permitted] using hp) _
  | setpix i r g b => exact ifReady_of_not_ready h (by simpa [permitted] using hp) _
  | write => exact ifReady_of_not_ready h (by simpa [permitted] using hp) _
  | map x y => simp [permitted, notFatal] at hp
  | rdpix i => exact ifReady_of_not_ready h (by simpa [permitted] using hp) _
  | rdstat => simp [permitted, notFatal] at hp

theorem not_permitted_of_exec {c : Instr} {s : State} (h : s.cmdReady = true)
    (hx : exec c s = .next (respond (.fault (.stateError s.mode)) s)) : permitted c s.mode = false := by
  rcases exec_eq_next hx with ⟨hn, _⟩ | ⟨_, effect⟩
  · simp [h] at hn
  · generalize ht : respond (.fault (.stateError s.mode)) s = t at effect
    cases effect with
    | fault _ hp =>
      cases respond_injective ht
      exact hp.mp rfl
    | _ => simpa using congrArg State.rspsRev ht

/-! ### what every command leaves unchanged -/

/-- `t` has the history, the configuration and the model's own fields of `s`; the responses are not among them. -/
structure RecordKept (s t : State) : Prop where
  wire : t.wire = s.wire
  host : t.host = s.host
  resets : t.resets = s.resets
  cfg : t.cfg = s.cfg
  accepted : t.accepted = s.accepted

theorem exec_keeps_record {c : Instr} {s t : State} (h : exec c s = .next t) : RecordKept s t := by
  rcases exec_eq_next h with ⟨_, rfl⟩ | ⟨_, effect⟩
  · exact ⟨rfl, rfl, rfl, rfl, rfl⟩
  · cases effect <;> exact ⟨rfl, rfl, rfl, rfl, rfl⟩

/-- No command writes `GAPCNT`, and none but WRITE the cursor. -/
theorem exec_keeps_gapcnt {c : Instr} {s t : State} (h : exec c s = .next t) : t.gapcnt = s.gapcnt := by
  rcases exec_eq_next h with ⟨_, rfl⟩ | ⟨_, effect⟩
  · rfl
  · cases effect <;> rfl

theorem exec_keeps_pc {c : Instr} {s t : State} (hc : c ≠ .write) (h : exec c s = .next t) : t.pc = s.pc := by
  rcases exec_eq_next h with ⟨_, rfl⟩ | ⟨_, effect⟩
  · rfl
  · cases effect with
    | write => exact absurd rfl hc
    | _ => rfl

theorem pixel?_congr {s t : State} (h : t.pixels = s.pixels) (j : Nat) : t.pixel? j = s.pixel? j := by
  rw [State.pixel?, h, State.pixel?]

/-- SETPIX writes its own pixel, CLEAR those below `LEDCNT`, and no other command any. -/
theorem exec_writes_pixel {c : Instr} {s t : State} (h : exec c s = .next t) {j : Nat} (hj : t.pixel? j ≠ s.pixel? j) :
    s.mode = .ready ∧ j < s.ledcnt.toNat
    ∧ (c = .clear ∨ ∃ i r g b, c = .setpix i r g b ∧ i.toNat = j ∧ t.pixel? j = some (r ++ g ++ b)) := by
  rcases exec_eq_next h with ⟨_, rfl⟩ | ⟨_, effect⟩
  · exact absurd rfl hj
  · cases effect with
    | clear hm =>
      refine ⟨hm, ?_, .inl rfl⟩
      by_contra outside
      exact hj ((clearBelow_getElem? ..).trans (if_neg fun inside => outside inside.1))
    | @setpix i r g b hm hi hx =>
      have same : i.toNat = j := by
        by_contra other
        exact hj (List.getElem?_set_ne other)
      subst same
      exact ⟨hm, hi, .inr ⟨i, r, g, b, rfl, rfl, List.getElem?_set_self hx⟩⟩
    | _ => exact absurd rfl hj

/-! ### the statements about one command -/

/-- Settles O10: the gate, then the mode check; and of the effects only a command not permitted answers `StateError`. -/
theorem commandsPermittedPerMode : Obligations.CommandsPermittedPerMode := by
  intro s
  refine ⟨fun h => h.elim cmdReady_of_fatal cmdReady_of_busy,
    fun h => ⟨exec_of_not_cmdReady h, command_of_not_cmdReady h⟩,
    fun h c => ⟨exec_of_not_permitted h, not_permitted_of_exec h⟩,
    fun h w e he => command_of_illegal h ⟨e, he⟩,
    fun _ => faultWord_of_code (c := 2) rfl (by decide)⟩

/-- Settles O45: none of the three is INIT, WRITE, CLEAR or SETPIX, the commands that write anything. -/
theorem readOnlyCommandsFrame : Obligations.ReadOnlyCommandsFrame := by
  intro s t c hc h
  have notWrite : c ≠ .write := by rintro rfl; simp at hc
  have setup := exec_keeps_setup (fun _ _ _ => by rintro rfl; simp at hc) h
  have record := exec_keeps_record h
  have pixels (j : Nat) : t.pixel? j = s.pixel? j := by
    by_contra hj
    obtain ⟨_, _, rfl | ⟨_, _, _, _, rfl, _⟩⟩ := exec_writes_pixel h hj <;> simp at hc
  exact ⟨setup.mode, setup.ledcnt, setup.pinsel, exec_keeps_phase (fun _ => notWrite) h, exec_keeps_pc notWrite h,
    exec_keeps_gapcnt h, setup.doutOe, pixels, record.wire, record.host, record.resets, record.cfg, record.accepted⟩

/-- Settles O46: a pixel that changes is one the command writes. -/
theorem bufferCommandsFrame : Obligations.BufferCommandsFrame := by
  intro s t c hc h
  have notWrite : c ≠ .write := by rintro rfl; simp at hc
  have setup := exec_keeps_setup (fun _ _ _ => by rintro rfl; simp at hc) h
  have record := exec_keeps_record h
  refine ⟨setup.mode, setup.ledcnt, setup.pinsel, exec_keeps_phase (fun _ => notWrite) h, exec_keeps_pc notWrite h,
    exec_keeps_gapcnt h, setup.doutOe, ?_, fun _ j hj => ?_, record.wire, record.host, record.resets, record.cfg,
    record.accepted⟩
  · rintro i r g b rfl j hj
    by_contra changed
    obtain ⟨_, _, clear | ⟨_, _, _, _, same, rfl, _⟩⟩ := exec_writes_pixel h changed
    · cases clear
    · cases same
      exact hj rfl
  · by_contra changed
    exact absurd (exec_writes_pixel h changed).2.1 (Nat.not_lt.mpr hj)

/-- Settles O47: INIT is none of the commands that write pixels or the serializer's registers. -/
theorem initFrame : Obligations.InitFrame := by
  intro s t pin n h
  have notWrite : Instr.init pin n ≠ .write := nofun
  have record := exec_keeps_record h
  exact ⟨pixel?_congr (execInit_keeps_pixels h), exec_keeps_phase (fun _ => notWrite) h, exec_keeps_pc notWrite h,
    exec_keeps_gapcnt h, record.wire, record.host, record.resets, record.cfg, record.accepted⟩

/-- Settles O48: the registers of INIT, `GAPCNT`, the pixels and the history are kept. -/
theorem writeFrame : Obligations.WriteFrame := by
  intro s t h
  have setup := exec_keeps_setup (i := .write) (fun _ _ _ => nofun) h
  have record := exec_keeps_record h
  exact ⟨setup.mode, setup.ledcnt, setup.pinsel, exec_keeps_gapcnt h, setup.doutOe,
    pixel?_congr (execWrite_keeps_pixels h), record.wire, record.host, record.resets, record.cfg, record.accepted⟩

/-- Settles O49: of the effects only the faults answer a fault, and only `NoTimingResource` writes anything else. -/
theorem faultsWriteNoState : Obligations.FaultsWriteNoState := by
  intro s t c f h hf
  rcases exec_eq_next h with ⟨_, rfl⟩ | ⟨_, effect⟩
  · simp at hf
  · cases effect with
    | fault hne =>
      obtain rfl : _ = f := by simpa using hf
      simp [hne, respond]
    | noTimingResource =>
      obtain rfl : _ = f := by simpa using hf
      rfl
    | _ => simp at hf

end Sys2Proof.Machine
end

section
/-! PROOFS. What a tick changes (10_state.md R17, 60_exceptions.md R111): the history, the configuration, the pixels and the
mode, each with the one cause that can change it; then the statements. -/

namespace Sys2Proof.Machine

/-! ### what every command and every serializer tick leaves unchanged -/

theorem recordKept_refl (s : State) : RecordKept s s := ⟨rfl, rfl, rfl, rfl, rfl⟩

theorem command_keeps_record {w : Word} {s t : State} (h : command w s = .next t) : RecordKept s t := by
  rcases command_eq_next h with ⟨_, _, hx⟩ | ⟨_, _, rfl⟩ | ⟨_, _, rfl⟩
  · exact exec_keeps_record hx
  · exact ⟨rfl, rfl, rfl, rfl, rfl⟩
  · exact recordKept_refl _

theorem serialize_keeps_record {s t : State} (h : serialize s = .next t) : RecordKept s t := by
  rcases serialize_eq_next h with ⟨_, rfl⟩ | ⟨_, hs⟩ | ⟨_, hg⟩
  · exact recordKept_refl _
  · obtain ⟨_, ⟨c, _, rfl⟩ | ⟨_, rfl⟩⟩ := shiftTick_eq_next hs <;> exact ⟨rfl, rfl, rfl, rfl, rfl⟩
  · obtain ⟨_, rfl⟩ | ⟨_, rfl⟩ := gapTick_eq_next hg <;> exact ⟨rfl, rfl, rfl, rfl, rfl⟩

theorem step_keeps_cfg {s t : State} (h : step s = .next t) : t.cfg = s.cfg := by
  obtain ⟨u, rfl, ⟨_, rfl⟩ | ⟨_, _, hc⟩ | ⟨_, _, hs⟩⟩ := step_eq_next h
  · rfl
  · exact (command_keeps_record hc).cfg
  · exact (serialize_keeps_record hs).cfg

/-! ### the number of pixel registers -/

theorem exec_keeps_registers {c : Instr} {s t : State} (h : exec c s = .next t) : t.pixels.length = s.pixels.length := by
  rcases exec_eq_next h with ⟨_, rfl⟩ | ⟨_, effect⟩
  · rfl
  · cases effect with
    | clear => exact clearBelow_length _ _
    | setpix => exact List.length_set
    | _ => rfl

theorem command_keeps_registers {w : Word} {s t : State} (h : command w s = .next t) :
    t.pixels.length = s.pixels.length := by
  rcases command_eq_next h with ⟨_, _, hx⟩ | ⟨_, _, rfl⟩ | ⟨_, _, rfl⟩
  · exact exec_keeps_registers hx
  · rfl
  · rfl

theorem step_keeps_registers {s t : State} (h : step s = .next t) (hn : s.pixels.length = s.cfg.nMax) :
    t.pixels.length = s.cfg.nMax := by
  obtain ⟨u, rfl, ⟨_, rfl⟩ | ⟨_, _, hc⟩ | ⟨_, _, hs⟩⟩ := step_eq_next h
  · exact resetPixels_length _ _
  · exact (command_keeps_registers hc).trans hn
  · exact (congrArg List.length (serialize_keeps_pixels hs)).trans hn

/-! ### the three statements -/

/-- Settles O56: the defaults by evaluation, and that no tick writes the configuration or adds a register. -/
theorem configurationIsFixed : Obligations.ConfigurationIsFixed := by
  refine ⟨rfl, by decide, by decide, by decide, fun s t h => ⟨step_keeps_cfg h, fun hn => ?_⟩⟩
  rw [step_keeps_cfg h]
  exact step_keeps_registers h hn

/-- Settles O50: the serializer writes no pixel, and an accepted word only as the command it decodes to. -/
theorem onlySetpixClearAndResetChangePixels : Obligations.OnlySetpixClearAndResetChangePixels := by
  intro s t j h hj
  obtain ⟨u, rfl, ⟨hr, _⟩ | ⟨_, ha, hc⟩ | ⟨_, _, hs⟩⟩ := step_eq_next h
  · exact .inl hr
  · rcases command_eq_next hc with ⟨c, hd, hx⟩ | ⟨_, _, rfl⟩ | ⟨_, _, rfl⟩
    · obtain ⟨hm, hlt, rfl | ⟨i, r, g, b, rfl, hi, hp⟩⟩ := exec_writes_pixel hx hj
      · exact .inr ⟨ha, hm, hlt, .inl hd⟩
      · exact .inr ⟨ha, hm, hlt, .inr ⟨i, r, g, b, hd, hi, hp⟩⟩
    · exact absurd rfl hj
    · exact absurd rfl hj
  · exact absurd (pixel?_congr (serialize_keeps_pixels hs) j) hj

/-- Settles O55: a tick without reset and without an INIT accepted in UNINIT keeps the mode. -/
theorem modeChangesOnlyByInitAndReset : Obligations.ModeChangesOnlyByInitAndReset := by
  intro s t h hm
  cases hr : s.port.rst with
  | true =>
    rw [step_of_rst hr] at h
    cases h
    exact .inl ⟨rfl, rfl⟩
  | false =>
    by_cases hinit : s.accepts = true ∧ s.mode = .uninit ∧ ∃ pin n, decode s.port.cmdWord = .ok (.init pin n)
    · obtain ⟨ha, hu, pin, n, hd⟩ := hinit
      have mode := step_mode_of_init ha hu hd h
      refine .inr ⟨hu, ha, ⟨pin, n, hd⟩, ?_⟩
      rw [mode] at hm ⊢
      split_ifs at hm ⊢
      · exact .inl rfl
      · exact .inr rfl
      · exact absurd hu.symm hm
    · exact absurd (step_keeps_setup hr (fun ha hu pin n hd => hinit ⟨ha, hu, pin, n, hd⟩) h).mode hm

end Sys2Proof.Machine
end

section
/-! PROOFS. Acceptance, answers and the end of a run (30_encoding.md R64, 70_reset_and_hazards.md R129): what a tick puts on
the record, the counts of accepted words and answers, and what is on the record for good; then the three statements. -/

namespace Sys2Proof.Machine

/-! ### one answer to an accepted word, or a frame started -/

/-- A command that is carried out answers in its tick, `NoTimingResource` exactly when it enters FATAL; only WRITE in READY
starts a frame instead. -/
theorem Effect.answers {s t : State} {c : Instr} (effect : Effect s c t) (hm : s.mode ≠ .fatal) :
    (t.phase = s.phase ∧ ∃ a, t.rspsRev = ⟨s.now, a⟩ :: s.rspsRev ∧ (t.mode = .fatal ↔ a = .fault .noTimingResource))
    ∨ (c = .write ∧ s.mode = .ready ∧ t.mode = .ready ∧ t.phase = .shift ∧ t.rspsRev = s.rspsRev) := by
  cases effect with
  | fault hf => exact .inl ⟨rfl, _, rfl, by simp [hm, hf]⟩
  | noTimingResource => exact .inl ⟨rfl, _, rfl, by simp⟩
  | write hready => exact .inr ⟨rfl, hready, hready, rfl, rfl⟩
  | _ => exact .inl ⟨rfl, _, rfl, by simp [hm]⟩

theorem command_answers {w : Word} {s t : State} (hc : s.cmdReady = true) (h : command w s = .next t) :
    (t.phase = s.phase ∧ ∃ a, t.rspsRev = ⟨s.now, a⟩ :: s.rspsRev ∧ (t.mode = .fatal ↔ a = .fault .noTimingResource))
    ∨ (w = 0x80000000#32 ∧ s.mode = .ready ∧ t.mode = .ready ∧ t.phase = .shift ∧ t.rspsRev = s.rspsRev) := by
  have notFatal := (cmdReady_iff.mp hc).1
  rcases command_eq_next h with ⟨c, hd, hx⟩ | ⟨_, _, rfl⟩ | ⟨_, hn, _⟩
  · rcases exec_eq_next hx with ⟨hn, _⟩ | ⟨_, effect⟩
    · simp [hc] at hn
    · exact (effect.answers notFatal).imp_right fun ⟨hw, hframe⟩ => ⟨decode_eq_write_iff.mp (hw ▸ hd), hframe⟩
  · exact .inl ⟨rfl, _, rfl, by simp [notFatal]⟩
  · simp [hc] at hn

/-- The serializer answers in the tick that takes it back to IDLE (R84). -/
theorem serialize_answers {s t : State} (h : serialize s = .next t) :
    ((s.phase = .idle ↔ t.phase = .idle) ∧ t.rspsRev = s.rspsRev)
    ∨ (s.phase ≠ .idle ∧ t.phase = .idle ∧ t.rspsRev = ⟨s.now, .ok 0⟩ :: s.rspsRev) := by
  rcases serialize_eq_next h with ⟨_, rfl⟩ | ⟨hp, hs⟩ | ⟨hp, hg⟩
  · exact .inl ⟨.rfl, rfl⟩
  · obtain ⟨_, ⟨c, _, rfl⟩ | ⟨_, rfl⟩⟩ := shiftTick_eq_next hs <;> exact .inl ⟨by simp [hp], rfl⟩
  · obtain ⟨_, rfl⟩ | ⟨_, rfl⟩ := gapTick_eq_next hg
    · exact .inl ⟨by simp [hp], rfl⟩
    · exact .inr ⟨by simp [hp], rfl, rfl⟩

/-! ### the counts -/

theorem accepted_length (s : State) : s.accepted.length = s.acceptedRev.length := List.length_reverse
theorem rsps_length (s : State) : s.rsps.length = s.rspsRev.length := List.length_reverse

theorem inFlight_of_idle {s : State} (h : s.phase = .idle) : s.inFlight = 0 := if_pos h
theorem inFlight_of_busy {s : State} (h : s.phase ≠ .idle) : s.inFlight = 1 := if_neg h

/-- Each word the block takes is answered or in flight after its tick. -/
theorem command_counts {w : Word} {s t : State} (hc : s.cmdReady = true) (h : command w s = .next t) :
    t.rsps.length + t.inFlight = s.rsps.length + s.inFlight + 1 := by
  have idle := (cmdReady_iff.mp hc).2.1
  rw [inFlight_of_idle idle, rsps_length, rsps_length]
  rcases command_answers hc h with ⟨hp, a, hr, _⟩ | ⟨_, _, _, hp, hr⟩
  · rw [inFlight_of_idle (hp.trans idle), hr, List.length_cons]
  · rw [inFlight_of_busy (by simp [hp]), hr]

theorem serialize_counts {s t : State} (h : serialize s = .next t) :
    t.rsps.length + t.inFlight = s.rsps.length + s.inFlight := by
  rw [rsps_length, rsps_length]
  rcases serialize_answers h with ⟨hp, hr⟩ | ⟨hb, hi, hr⟩
  · rw [hr, State.inFlight, State.inFlight, if_congr hp rfl rfl]
  · rw [inFlight_of_busy hb, inFlight_of_idle hi, hr, List.length_cons]

theorem endTick_accepted (s u : State) :
    (endTick s u).accepted = u.accepted ++ if s.accepts then [⟨s.now, s.port.cmdWord⟩] else [] := by
  cases ha : s.accepts <;> simp [State.accepted, ha]

/-- The record of accepted words grows by the word accepted in the tick, whatever else the tick does. -/
theorem step_accepted {s t : State} (h : step s = .next t) :
    t.accepted = s.accepted ++ if s.accepts then [⟨s.now, s.port.cmdWord⟩] else [] := by
  obtain ⟨u, rfl, hu⟩ := step_eq_next h
  have kept : u.accepted = s.accepted := by
    rcases hu with ⟨_, rfl⟩ | ⟨_, _, hc⟩ | ⟨_, _, hs⟩
    · rfl
    · exact (command_keeps_record hc).accepted
    · exact (serialize_keeps_record hs).accepted
  rw [endTick_accepted, kept]

/-- Settles O57: an accepted word and its answer or frame come in one tick, a frame and its answer in one, and reset drops
the frame only. -/
theorem everyCommandIsAnsweredOnce : Obligations.EveryCommandIsAnsweredOnce := by
  intro s t n h hn
  refine ⟨?_, step_accepted h⟩
  rw [step_accepted h, List.length_append, hn]
  obtain ⟨u, rfl, ⟨hr, rfl⟩ | ⟨hr, ha, hc⟩ | ⟨hr, ha, hs⟩⟩ := step_eq_next h
  · have notAccepted := accepts_of_not_cmdReady (cmdReady_of_rst hr)
    change s.rsps.length + s.inFlight + n + _ = s.rsps.length + 0 + _
    rw [if_neg (by simp [notAccepted]), List.length_nil]
    by_cases hp : s.phase = .idle
    · rw [inFlight_of_idle hp, if_neg (by simp [hp]), Nat.add_zero]
    · rw [inFlight_of_busy hp, if_pos ⟨hr, hp⟩]
      omega
  · have counts := command_counts (accepts_iff.mp ha).2 hc
    change (endTick s u).rsps.length + (endTick s u).inFlight = _ at counts
    rw [if_pos ha, if_neg (by simp [hr]), List.length_singleton]
    omega
  · have counts := serialize_counts hs
    change (endTick s u).rsps.length + (endTick s u).inFlight = _ at counts
    rw [if_neg (by simp [ha]), if_neg (by simp [hr]), List.length_nil]
    omega

/-! ### what stays on the record -/

/-- What every step keeps, any number of ticks keep. -/
theorem ticks_keep {P : State → Prop} (hstep : ∀ {s t}, P s → step s = .next t → P t) {k : Nat} {s t : State} (hs : P s)
    (h : ticks k s = .next t) : P t := by
  induction k generalizing s with
  | zero =>
    cases h
    exact hs
  | succ k ih =>
    simp only [ticks] at h
    split at h
    · next u hu => exact ih (hstep hs hu) h
    all_goals cases h

/-- No answer is ever taken off the record. -/
theorem step_keeps_responses {s t : State} (h : step s = .next t) : s.rspsRev ⊆ t.rspsRev := by
  obtain ⟨u, rfl, ⟨_, rfl⟩ | ⟨_, ha, hc⟩ | ⟨_, _, hs⟩⟩ := step_eq_next h
  · exact List.Subset.refl _
  · rw [endTick_rspsRev]
    rcases command_answers (accepts_iff.mp ha).2 hc with ⟨_, a, hr, _⟩ | ⟨_, _, _, _, hr⟩ <;> simp [hr]
  · rw [endTick_rspsRev]
    rcases serialize_answers hs with ⟨_, hr⟩ | ⟨_, _, hr⟩ <;> simp [hr]

/-- `NoTimingResource`, the one fault that leads to FATAL, is on the record (R104). -/
def State.lostResource (s : State) : Prop := ∃ r ∈ s.rsps, r.answer = .fault .noTimingResource

theorem step_keeps_lostResource {s t : State} (hs : s.lostResource) (h : step s = .next t) : t.lostResource := by
  obtain ⟨r, hr, hf⟩ := hs
  exact ⟨r, List.mem_reverse.mpr (step_keeps_responses h (List.mem_reverse.mp hr)), hf⟩

/-- FATAL is entered with its fault on the record. -/
theorem lostResource_of_enters_fatal {s t : State} (h : step s = .next t) (hm : s.mode ≠ .fatal) (ht : t.mode = .fatal) :
    t.lostResource := by
  obtain ⟨u, rfl, ⟨_, rfl⟩ | ⟨_, ha, hc⟩ | ⟨_, _, hs⟩⟩ := step_eq_next h
  · cases ht
  · rcases command_answers (accepts_iff.mp ha).2 hc with ⟨_, a, hr, hfatal⟩ | ⟨_, _, hready, _⟩
    · exact ⟨⟨s.now, a⟩, by simp [State.rsps, hr], hfatal.mp ht⟩
    · cases hready.symm.trans ht
  · exact absurd ((serialize_keeps_setup hs).mode.symm.trans ht) hm

/-- Some accepted word will never be answered. -/
def State.cutShort (s : State) : Prop := s.rsps.length + s.inFlight < s.accepted.length

theorem step_keeps_cutShort {s t : State} (hs : s.cutShort) (h : step s = .next t) : t.cutShort := by
  obtain ⟨n, hn⟩ := Nat.exists_eq_add_of_lt hs
  have counts := (everyCommandIsAnsweredOnce s t (n + 1) h hn).1
  rw [State.cutShort, counts]
  split <;> omega

/-- A frame cut by reset is never answered (R118). -/
theorem cutShort_of_reset {s t : State} (hs : s.rsps.length + s.inFlight ≤ s.accepted.length) (hp : s.phase ≠ .idle)
    (hr : s.port.rst = true) (h : step s = .next t) : t.cutShort := by
  obtain ⟨n, hn⟩ := Nat.exists_eq_add_of_le hs
  have counts := (everyCommandIsAnsweredOnce s t n h hn).1
  rw [if_pos ⟨hr, hp⟩] at counts
  rw [State.cutShort, counts]
  omega

/-! ### the end of a run (R129) -/

theorem runOver_iff {prog : List Word} {s : State} :
    s.runOver prog = true ↔ s.accepted.map Accepted.word = prog ∧ s.accepted.length = s.rsps.length ∧ s.phase = .idle
      ∧ s.mode ≠ .fatal ∧ ∀ r ∈ s.rsps, r.answer ≠ .fault .noTimingResource := by
  simp [State.runOver, State.allAnswered, State.reachedFatal, State.rsps, accepted_length, and_assoc]

theorem not_runOver_of_lostResource {s : State} (h : s.lostResource) (prog : List Word) : s.runOver prog = false := by
  obtain ⟨r, hr, hf⟩ := h
  exact Bool.eq_false_iff.mpr fun hover => (runOver_iff.mp hover).2.2.2.2 r hr hf

theorem not_runOver_of_cutShort {s : State} (h : s.cutShort) (prog : List Word) : s.runOver prog = false := by
  refine Bool.eq_false_iff.mpr fun hover => ?_
  have answered := (runOver_iff.mp hover).2.1
  rw [State.cutShort] at h
  omega

/-- Settles O58: the two things that keep a run from being over are kept by every tick. -/
theorem endOfARun : Obligations.EndOfARun :=
  ⟨fun _ _ => runOver_iff,
    fun prog _ _ _ hs h => not_runOver_of_lostResource (ticks_keep step_keeps_lostResource hs h) prog,
    fun _ _ => lostResource_of_enters_fatal,
    fun prog _ _ _ _ hs hp hr ht hu =>
      not_runOver_of_cutShort (ticks_keep step_keeps_cutShort (cutShort_of_reset hs hp hr ht) hu) prog⟩

/-- After one tick that accepts a word and does not start a frame, the run is over with that word, unless FATAL is reached. -/
theorem runOver_after_tick {prog : List Word} {s t : State} (hover : s.runOver prog = true) (ha : s.accepts = true)
    (hw : ¬ (s.mode = .ready ∧ s.port.cmdWord = 0x80000000#32)) (h : step s = .next t) (ht : t.mode ≠ .fatal) :
    t.runOver (prog ++ [s.port.cmdWord]) = true := by
  obtain ⟨hwords, hanswered, hidle, _, hclean⟩ := runOver_iff.mp hover
  have accepted := step_accepted h
  rw [if_pos ha] at accepted
  rw [step_of_accepts ha] at h
  obtain ⟨u, hc, rfl⟩ := onNext_eq_next.mp h
  rcases command_answers (accepts_iff.mp ha).2 hc with ⟨hphase, a, hr, hfatal⟩ | ⟨hword, hm, _⟩
  · have rsps : (endTick s u).rsps = s.rsps ++ [⟨s.now, a⟩] := by simp [State.rsps, hr]
    refine runOver_iff.mpr ⟨by simp [accepted, hwords], by simp [accepted, rsps, hanswered], hphase.trans hidle, ht, ?_⟩
    intro r hmem
    rw [rsps, List.mem_append, List.mem_singleton] at hmem
    rcases hmem with old | rfl
    · exact hclean r old
    · exact mt hfatal.mpr ht
  · exact absurd ⟨hm, hword⟩ hw

/-- Settles O59: one tick by the record of that tick, a WRITE in READY by the frame law. -/
theorem runsGetOver : Obligations.RunsGetOver := by
  intro prog s hs hn hover ha
  by_cases hw : s.mode = .ready ∧ s.port.cmdWord = 0x80000000#32
  · obtain ⟨hwords, hanswered, hidle, hm, hclean⟩ := runOver_iff.mp hover
    obtain ⟨t, ht, _, hrsps, hkept, _⟩ := (frameLaw s hs hn hw.1 hidle (accepts_iff.mp ha).1 hw.2).2
    have accepted : t.accepted = s.accepted ++ [⟨s.now, s.port.cmdWord⟩] := by
      rw [hkept]
      simp [State.accepted, hw.2]
    refine ⟨t, by rw [if_pos hw]; exact ht, .inr (runOver_iff.mpr ⟨by simp [accepted, hwords], ?_, ?_, ?_, ?_⟩)⟩
    · simp [accepted, hrsps, hanswered]
    · rw [hkept]
      exact hidle
    · rw [hkept]
      exact hm
    · simpa [hrsps, or_imp, forall_and] using hclean
  · obtain ⟨t, ht⟩ := step_completes (inv_iff_legalState.mp hs)
    refine ⟨t, by rw [if_neg hw, ticks_one, ht], ?_⟩
    by_cases hfatal : t.mode = .fatal
    · exact .inl hfatal
    · exact .inr (runOver_after_tick hover ha hw ht hfatal)

end Sys2Proof.Machine
end

section
/-! PROOFS. Legality (10_state.md sections 2 to 5, 42_write_serializer.md R91): the reset states are legal, every effect of a
command and every tick leads from a legal state to one; then the two statements. -/

namespace Sys2Proof.Machine

/-! ### a state in reset -/

theorem legalState_resetAt {p : Params} (hp : p.legal = true) (he : p.encodable = true) (k : Nat) :
    LegalState (State.resetAt p k) where
  config := hp
  widths := he
  registers := resetPixels_length _ _
  count := nofun
  unconfigured := fun _ => ⟨rfl, rfl⟩
  driven := ⟨nofun, nofun⟩
  ready_of_busy := fun h => absurd rfl h
  onFrame := nofun
  pc_idle := fun _ => rfl
  inGap := nofun
  gapcnt_zero := fun _ => rfl

/-! ### the updates a command and the gap's last tick make -/

namespace LegalState

variable {s : State} (h : LegalState s)
include h

/-- Legality is not about the record, the host or the count of resets. -/
theorem withRecord (wire : List Level) (rsps : List Response) (accepted : List Accepted) (host : List HostAct)
    (resets : Nat) :
    LegalState { s with wireRev := wire, rspsRev := rsps, acceptedRev := accepted, host := host, resets := resets } :=
  ⟨h.config, h.widths, h.registers, h.count, h.unconfigured, h.driven, h.ready_of_busy, h.onFrame, h.pc_idle, h.inGap,
    h.gapcnt_zero⟩

theorem respond (a : Answer) : LegalState (Machine.respond a s) := h.withRecord ..

theorem resetBlock : LegalState (Machine.resetBlock s) :=
  (legalState_resetAt h.config h.widths (s.resets + 1)).withRecord ..

theorem setPixels {v : List Pixel} (hv : v.length = s.pixels.length) : LegalState { s with pixels := v } :=
  ⟨h.config, h.widths, hv.trans h.registers, h.count, h.unconfigured, h.driven, h.ready_of_busy, h.onFrame, h.pc_idle,
    h.inGap, h.gapcnt_zero⟩

/-- Out of the gap. -/
theorem gapOver (hp : s.phase = .gap) : LegalState { s with gapcnt := 0, phase := .idle } where
  config := h.config
  widths := h.widths
  registers := h.registers
  count := h.count
  unconfigured := h.unconfigured
  driven := h.driven
  ready_of_busy := fun hidle => absurd rfl hidle
  onFrame := nofun
  pc_idle := fun _ => h.pc_idle (by simp [hp])
  inGap := nofun
  gapcnt_zero := fun _ => rfl

/-- INIT's success: the count is in range. -/
theorem broughtUp (hm : s.mode = .uninit) {n : BitVec 8} (hn : countBad n s = false) (pin : Pin) :
    LegalState { s with ledcnt := n, pinsel := pin, doutOe := true, mode := .ready } where
  config := h.config
  widths := h.widths
  registers := h.registers
  count := fun _ => countBad_eq_false_iff.mp hn
  unconfigured := fun hready => absurd rfl hready
  driven := ⟨fun _ => rfl, fun _ => rfl⟩
  ready_of_busy := fun _ => rfl
  onFrame := fun hp => by simp [h.idle_of_not_ready (by simp [hm])] at hp
  pc_idle := h.pc_idle
  inGap := h.inGap
  gapcnt_zero := h.gapcnt_zero

/-- INIT's fatal end: nothing but the mode is written. -/
theorem madeFatal (hm : s.mode = .uninit) : LegalState { s with mode := .fatal } where
  config := h.config
  widths := h.widths
  registers := h.registers
  count := nofun
  unconfigured := fun _ => h.unconfigured (by simp [hm])
  driven := ⟨fun hd => by simp [h.doutOe_of_not_ready (by simp [hm])] at hd, nofun⟩
  ready_of_busy := fun hp => absurd (h.idle_of_not_ready (by simp [hm])) hp
  onFrame := h.onFrame
  pc_idle := h.pc_idle
  inGap := h.inGap
  gapcnt_zero := h.gapcnt_zero

end LegalState

/-! ### every effect, every tick -/

theorem Effect.legalState {s t : State} {c : Instr} (effect : Effect s c t) (h : LegalState s) (hp : s.phase = .idle) :
    LegalState t := by
  cases effect with
  | fault => exact h.respond _
  | noTimingResource hm => exact (h.madeFatal hm).respond _
  | init hm hn => exact (h.broughtUp hm hn _).respond _
  | clear => exact (h.setPixels (clearBelow_length _ _)).respond _
  | setpix => exact (h.setPixels List.length_set).respond _
  | write hm => exact h.shiftAt hm (h.gapcnt_zero (by simp [hp])) (h.count hm).1 h.cellTicks_pos
  | map => exact h.respond _
  | rdpix => exact h.respond _
  | rdstat => exact h.respond _

theorem command_keeps_legalState {w : Word} {s t : State} (h : LegalState s) (hc : s.cmdReady = true)
    (ht : command w s = .next t) : LegalState t := by
  rcases command_eq_next ht with ⟨c, _, hx⟩ | ⟨_, _, rfl⟩ | ⟨_, _, rfl⟩
  · rcases exec_eq_next hx with ⟨_, rfl⟩ | ⟨_, effect⟩
    · exact h
    · exact effect.legalState h (cmdReady_iff.mp hc).2.1
  · exact h.respond _
  · exact h

/-- The gap's last tick answers and leaves for IDLE (R83). -/
theorem gap_tick_last {s : State} (hr : s.port.rst = false) (hp : s.phase = .gap)
    (hk : s.cfg.resetTicks ≤ s.gapcnt.toNat + 1) :
    step s = .next (endTick s (respondOk 0 { s with gapcnt := 0, phase := .idle })) :=
  step_of_busy hr (by simp [hp]) (serialize_of_gap_last hp (by omega))

theorem serializerTick_keeps_legalState {s t : State} (h : LegalState s) (hr : s.port.rst = false)
    (ha : s.accepts = false) (ht : step s = .next t) : LegalState t := by
  cases hp : s.phase with
  | idle =>
    cases (step_of_idle hr ha hp).symm.trans ht
    exact h.endTick s
  | shift =>
    rcases Nat.lt_or_eq_of_le (Nat.succ_le_of_lt (place_lt_shiftTicks h hp)) with hk | hk
    · obtain ⟨t', ht', run, _⟩ := shift_tick h hr hp hk
      cases ht'.symm.trans ht
      exact run.legal
    · obtain ⟨t', ht', run, _⟩ := shift_tick_last h hr hp hk
      cases ht'.symm.trans ht
      exact run.legal
  | gap =>
    rcases Nat.lt_or_ge (s.gapcnt.toNat + 1) s.cfg.resetTicks with hk | hk
    · obtain ⟨t', ht', run, _⟩ := gap_tick h hr hp hk
      cases ht'.symm.trans ht
      exact run.legal
    · cases (gap_tick_last hr hp hk).symm.trans ht
      exact ((h.gapOver hp).respond _).endTick s

theorem step_keeps_legalState {s t : State} (h : LegalState s) (ht : step s = .next t) : LegalState t := by
  obtain ⟨u, rfl, ⟨_, rfl⟩ | ⟨_, ha, hc⟩ | ⟨hr, ha, _⟩⟩ := step_eq_next ht
  · exact h.resetBlock.endTick s
  · exact (command_keeps_legalState h (accepts_iff.mp ha).2 hc).endTick s
  · exact serializerTick_keeps_legalState h hr ha ht

/-- Settles O51: the fields of a reset state, read off. -/
theorem resetIsLegal : Obligations.ResetIsLegal :=
  ⟨inv_iff_legalState.mpr (legalState_resetAt (by decide) (by decide) 0),
    fun _ k hp he => inv_iff_legalState.mpr (legalState_resetAt hp he k)⟩

/-- Settles O52: no stop is reached, and reset, every effect of a command and every serializer tick keep each clause. -/
theorem everyTickKeepsLegality : Obligations.EveryTickKeepsLegality := by
  intro s hs
  have legal := inv_iff_legalState.mp hs
  obtain ⟨t, ht⟩ := step_completes legal
  exact ⟨t, ht, inv_iff_legalState.mpr (step_keeps_legalState legal ht)⟩

end Sys2Proof.Machine
end

section
/-! PROOFS. The tick on the wire and on the ports (10_state.md R23 to R27, 42_write_serializer.md R79 to R85): the level, the
answer and the host's part in a tick, the cursor's place and the gap; then the statements. -/

namespace Sys2Proof.Machine

/-! ### the line and the host -/

theorem level_eq (s : State) :
    s.level = if s.port.rst = true ∨ s.doutOe = false then .z else if s.dout then .high else .low := by
  cases hr : s.port.rst <;> cases hd : s.doutOe <;> simp [State.level, hr, hd]

theorem level_of_idle {s : State} (hr : s.port.rst = false) (hp : s.phase = .idle) :
    s.level = if s.doutOe then .low else .z := by
  simp [State.level, hr, dout_of_idle hp]

/-- The serializer does not look at the host's acts. -/
theorem serialize_of_host (s : State) (acts : List HostAct) :
    serialize { s with host := acts } = onNext (fun t => { t with host := acts }) (serialize s) := by
  cases hp : s.phase with
  | idle => simp [serialize, hp, onNext]
  | shift =>
    simp only [serialize, hp, shiftTick]
    by_cases hpix : s.pc.pix.toNat < s.pixels.length
    · simp only [if_pos hpix]
      cases s.pc.advance s.cfg s.ledcnt <;> rfl
    · simp only [if_neg hpix, onNext]
  | gap =>
    simp only [serialize, hp, gapTick]
    by_cases hg : s.gapcnt.toNat < s.cfg.resetTicks - 1
    · simp only [if_pos hg, onNext]
    · simp only [if_neg hg]
      rfl

/-- Settles O39: the level of the tick's start, as `State.level` has it. -/
theorem everyTickAppendsOneLevel : Obligations.EveryTickAppendsOneLevel := by
  intro s t h
  rw [step_appends_level h, level_eq]

/-- Settles O38: the tick only ends, with nothing accepted. -/
theorem idleTickRecordsTheIdleLevel : Obligations.IdleTickRecordsTheIdleLevel := by
  intro s hp hr ha
  rw [step_of_idle hr ha hp, endTick_of_no_command ha, level_of_idle hr hp]

/-- Settles O41: both ticks run the serializer on the same registers and record the same level. -/
theorem busyBlockIgnoresTheHost : Obligations.BusyBlockIgnoresTheHost := by
  intro s acts hp hr hr'
  have ha := accepts_false_of_busy hp
  have ha' : ({ s with host := acts } : State).accepts = false := accepts_false_of_busy hp
  have level : ({ s with host := acts } : State).level = s.level := by
    simp only [level_eq, hr, hr']
    rfl
  rw [step_of_no_command hr ha, step_of_no_command hr' ha', serialize_of_host s acts]
  cases serialize s with
  | next u =>
    refine ⟨fun t ht => ⟨({ s with host := acts } : State).hostNext, ?_⟩, nofun⟩
    cases ht
    simp only [onNext, endTick_of_no_command ha, endTick_of_no_command ha', level]
  | fault r => exact ⟨nofun, fun r' h => by cases h; rfl⟩
  | refused r => exact ⟨nofun, nofun⟩

/-! ### the answer given in a tick (R58, R64) -/

theorem answerNow_of_answered {s t : State} {r : Response} (h : step s = .next t) (hr : t.rspsRev = r :: s.rspsRev) :
    s.answerNow = some r.answer := by
  rw [step] at h
  simp [State.answerNow, h, hr]

theorem answerNow_of_rst {s : State} (hr : s.port.rst = true) : s.answerNow = none :=
  answerNow_of_rspsRev_kept (step_of_rst hr) rfl

/-- In a tick that accepts a word there is an answer but to a WRITE in READY. -/
theorem answerNow_of_accepts {s t : State} (ha : s.accepts = true) (h : step s = .next t) :
    s.answerNow.isSome = true ↔ ¬ (s.mode = .ready ∧ s.port.cmdWord = 0x80000000#32) := by
  by_cases hw : s.mode = .ready ∧ s.port.cmdWord = 0x80000000#32
  · rw [answerNow_of_rspsRev_kept (step_of_write ha hw.1 hw.2) rfl]
    simp [hw]
  · have ht := h
    rw [step_of_accepts ha] at h
    obtain ⟨u, hc, rfl⟩ := onNext_eq_next.mp h
    rcases command_answers (accepts_iff.mp ha).2 hc with ⟨_, a, hr, _⟩ | ⟨hword, hm, _⟩
    · simp [answerNow_of_answered ht hr, hw]
    · exact absurd ⟨hm, hword⟩ hw

theorem answerNow_of_shift {s : State} (h : LegalState s) (hr : s.port.rst = false) (hp : s.phase = .shift) :
    s.answerNow = none := by
  have busy : s.phase ≠ .idle := by simp [hp]
  cases ha : s.pc.advance s.cfg s.ledcnt with
  | some c => exact answerNow_of_rspsRev_kept (step_of_busy hr busy (serialize_of_advance h hp ha)) rfl
  | none => exact answerNow_of_rspsRev_kept (step_of_busy hr busy (serialize_of_lastPlace h hp ha)) rfl

theorem answerNow_of_gap {s : State} (hr : s.port.rst = false) (hp : s.phase = .gap) :
    s.answerNow = if s.gapcnt.toNat + 1 < s.cfg.resetTicks then none else some (.ok 0) := by
  have busy : s.phase ≠ .idle := by simp [hp]
  split
  · next hk => exact answerNow_of_rspsRev_kept (step_of_busy hr busy (serialize_of_gap_lt hp (by omega))) rfl
  · next hk => exact answerNow_of_answered (gap_tick_last hr hp (by omega)) rfl

/-- Settles O40: the answer of the tick, phase by phase. -/
theorem responsePortTiming : Obligations.ResponsePortTiming := by
  intro s hs
  have legal := inv_iff_legalState.mp hs
  obtain ⟨t, ht⟩ := step_completes legal
  refine ⟨fun hr => ?_, fun hr hp => ?_, fun hr hp => ?_, fun hr hp => ?_⟩
  · simp [State.outputs, answerNow_of_rst hr]
  · cases ha : s.accepts with
    | false => simp [State.outputs, answerNow_of_idle hr ha hp]
    | true => simpa [State.outputs] using answerNow_of_accepts ha ht
  · simp [State.outputs, answerNow_of_shift legal hr hp]
  · have inRange := legal.inGap hp
    simp only [State.outputs, answerNow_of_gap hr hp]
    split
    · exact ⟨iff_of_false nofun (by omega), rfl⟩
    · exact ⟨iff_of_true rfl (by omega), rfl⟩

/-! ### the cursor's place and the gap's count -/

/-- Settles O30: a place short of the last is raised by one, and from the last the gap begins. -/
theorem cursorCountsTheFramesTicks : Obligations.CursorCountsTheFramesTicks := by
  intro s hs hr hp
  have legal := inv_iff_legalState.mp hs
  have onFrame := place_lt_shiftTicks legal hp
  refine ⟨onFrame, ?_⟩
  rcases Nat.lt_or_eq_of_le (Nat.succ_le_of_lt onFrame) with hk | hk
  · obtain ⟨t, ht, _, hshift, hplace⟩ := shift_tick legal hr hp hk
    exact ⟨t, ht, fun _ => ⟨hshift, hplace⟩, fun hlast => absurd hlast hk.ne⟩
  · obtain ⟨t, ht, run, hgap, hcount⟩ := shift_tick_last legal hr hp hk
    exact ⟨t, ht, fun hlt => absurd hk hlt.ne, fun _ => ⟨hgap, run.legal.pc_idle (by simp [hgap]), hcount⟩⟩

/-- Settles O32: the run of the gap's ticks short of the last, then the tick that answers. -/
theorem gapLastsResetTicks : Obligations.GapLastsResetTicks := by
  intro s hs hn hp hg
  have legal := inv_iff_legalState.mp hs
  obtain ⟨_, _, _, _, _, _, hpos, _, hbound⟩ := params_legal_iff.mp legal.config
  refine ⟨hbound, fun k hk => ?_, ?_⟩
  · obtain ⟨u, hu, run, hgap, hcount⟩ := ticks_of_gap legal hn hp hg k hk
    exact ⟨u, hu, hgap, hcount, run.wire, run.rsps⟩
  · obtain ⟨k, hk⟩ : ∃ k, s.cfg.resetTicks = k + 1 := ⟨s.cfg.resetTicks - 1, by omega⟩
    obtain ⟨u, hu, run, hgap, hcount⟩ := ticks_of_gap legal hn hp hg k (by omega)
    have hr := port_rst_of_noReset (run.noReset hn)
    have last := gap_tick_last hr hgap (by rw [run.cfg]; omega)
    have now : u.now = s.now + k := by rw [now_eq_wire_length, run.wire, now_eq_wire_length]; simp
    rw [hk]
    refine ⟨_, (ticks_succ hu).trans last, rfl, rfl, ?_, ?_⟩
    · rw [step_appends_level last, level_of_not_shift hr (run.legal.doutOe_of_busy (by simp [hgap])) (by simp [hgap]),
        run.wire, List.replicate_succ', List.append_assoc]
    · rw [endTick_rsps, respondOk, respond_rsps]
      change u.rsps ++ [⟨u.now, .ok 0⟩] = _
      rw [run.rsps, now, Nat.add_sub_cancel]

/-- Settles O44: the registers `State.resetAt` lists, at reset and after a tick with `RST = 1`. -/
theorem resetPixelsAreTheFreeValues : Obligations.ResetPixelsAreTheFreeValues := by
  refine ⟨fun i hi => resetAt_pixel? hi, fun s t hr h i hi => ?_⟩
  rw [step_of_rst hr] at h
  cases h
  exact resetBlock_pixel? hi

end Sys2Proof.Machine
end

section
/-! PROOFS. The inter-frame law (42_write_serializer.md R87): how one more level changes the low run on the record, then each
tick that keeps the gap relation; then the two statements. -/

namespace Sys2Proof.Machine

/-! ### the low run, one level at a time -/

section
variable {s t : State} {l : Level} (h : t.wireRev = l :: s.wireRev)
include h

theorem lowTail_of_low (hl : l = .low) : t.lowTail = s.lowTail + 1 := by
  simp [State.lowTail, h, hl]

/-- Another low level leaves what came before the low run. -/
theorem cellBefore_of_low (hl : l = .low) : t.cellBefore = s.cellBefore := by
  simp [State.cellBefore, h, hl]

theorem cellBefore_of_z (hl : l = .z) : t.cellBefore = false := by
  simp [State.cellBefore, h, hl]

end

theorem step_wireRev {s t : State} (h : step s = .next t) : t.wireRev = s.level :: s.wireRev := by
  simpa [State.wire] using congrArg List.reverse (step_appends_level h)

/-! ### the parts of the gap relation by name -/

/-- The clauses of `State.GapInv`, named. -/
structure GapKept (s : State) : Prop where
  idle : s.phase = .idle → s.cellBefore = true → cellLow s.cfg + s.cfg.resetTicks ≤ s.lowTail
  frameStart : s.phase = .shift → s.pc = Cursor.idle → s.cellBefore = true →
    cellLow s.cfg + s.cfg.resetTicks + 1 ≤ s.lowTail
  inCell : s.phase = .shift → ∀ p, s.pixel? s.pc.pix.toNat = some p →
    s.pc.tick.toNat - highTicks s.cfg (bitAt p s.pc) ≤ s.lowTail
  inGap : s.phase = .gap → cellLow s.cfg + s.gapcnt.toNat ≤ s.lowTail

theorem gapInv_iff_gapKept {s : State} : s.GapInv ↔ GapKept s :=
  ⟨fun ⟨h1, h2, h3, h4⟩ => ⟨h1, h2, h3, h4⟩, fun ⟨h1, h2, h3, h4⟩ => ⟨h1, h2, h3, h4⟩⟩

/-! ### the relation in one phase -/

theorem gapKept_of_idle {s : State} (hp : s.phase = .idle)
    (h : s.cellBefore = true → cellLow s.cfg + s.cfg.resetTicks ≤ s.lowTail) : GapKept s where
  idle := fun _ => h
  frameStart := fun hs => by simp [hp] at hs
  inCell := fun hs => by simp [hp] at hs
  inGap := fun hs => by simp [hp] at hs

theorem gapKept_of_frameStart {s : State} (hp : s.phase = .shift) (hc : s.pc = Cursor.idle)
    (h : s.cellBefore = true → cellLow s.cfg + s.cfg.resetTicks + 1 ≤ s.lowTail) : GapKept s where
  idle := fun hs => by simp [hp] at hs
  frameStart := fun _ _ => h
  inCell := fun _ p _ => by simp [hc, Cursor.idle]
  inGap := fun hs => by simp [hp] at hs

theorem gapKept_of_inFrame {s : State} (hp : s.phase = .shift) (hc : s.pc ≠ Cursor.idle)
    (h : ∀ p, s.pixel? s.pc.pix.toNat = some p → s.pc.tick.toNat - highTicks s.cfg (bitAt p s.pc) ≤ s.lowTail) :
    GapKept s where
  idle := fun hs => by simp [hp] at hs
  frameStart := fun _ hidle => absurd hidle hc
  inCell := fun _ => h
  inGap := fun hs => by simp [hp] at hs

theorem gapKept_of_gap {s : State} (hp : s.phase = .gap) (h : cellLow s.cfg + s.gapcnt.toNat ≤ s.lowTail) : GapKept s where
  idle := fun hs => by simp [hp] at hs
  frameStart := fun hs => by simp [hp] at hs
  inCell := fun hs => by simp [hp] at hs
  inGap := fun _ => h

/-! ### the ticks of an idle block: without a command, with one, and with WRITE -/

theorem gapKept_of_undriven {s t : State} (ht : step s = .next t) (hz : s.level = .z) (hp : t.phase = .idle) : GapKept t :=
  gapKept_of_idle hp fun hb => by simp [cellBefore_of_z (step_wireRev ht) hz] at hb

theorem gapKept_of_idleTick {s t : State} (hk : GapKept s) (ht : step s = .next t) (hr : s.port.rst = false)
    (hp : s.phase = .idle) (hp' : t.phase = .idle) : GapKept t := by
  cases hd : s.doutOe with
  | false => exact gapKept_of_undriven ht (level_of_not_driven hd) hp'
  | true =>
    have low := level_of_not_shift hr hd (by simp [hp])
    refine gapKept_of_idle hp' fun hb => ?_
    rw [cellBefore_of_low (step_wireRev ht) low] at hb
    rw [lowTail_of_low (step_wireRev ht) low, step_keeps_cfg ht]
    exact (hk.idle hp hb).trans (Nat.le_succ _)

/-- WRITE's accepting tick is one more low tick before the first cell. -/
theorem gapKept_of_write {s t : State} (hl : LegalState s) (hk : GapKept s) (ht : step s = .next t) (ha : s.accepts = true)
    (hm : s.mode = .ready) (hw : s.port.cmdWord = 0x80000000#32) : GapKept t := by
  obtain ⟨_, hp, hr⟩ := cmdReady_iff.mp (accepts_iff.mp ha).2
  have low := level_of_not_shift hr (hl.driven.mpr hm) (by simp [hp])
  have wire := step_wireRev ht
  cases (step_of_write ha hm hw).symm.trans ht
  refine gapKept_of_frameStart rfl rfl fun hb => ?_
  rw [cellBefore_of_low wire low] at hb
  rw [lowTail_of_low wire low]
  exact Nat.succ_le_succ (hk.idle hp hb)

/-! ### the ticks of a frame in flight -/

theorem highTicks_bounds {p : Params} (h : p.legal = true) (b : Bool) : p.t0h ≤ highTicks p b ∧ highTicks p b ≤ p.t1h := by
  have := params_legal_iff.mp h
  cases b <;> simp only [highTicks, if_true, Bool.false_eq_true, if_false] <;> omega

/-- After a SHIFT tick the ticks of its cell past the high part are low on the record, this tick included. -/
theorem lowTail_after_shift {s t : State} (hl : LegalState s) (hk : GapKept s) (ht : step s = .next t)
    (hr : s.port.rst = false) (hp : s.phase = .shift) {p : Pixel} (hpix : s.pixel? s.pc.pix.toNat = some p) :
    s.pc.tick.toNat + 1 - highTicks s.cfg (bitAt p s.pc) ≤ t.lowTail := by
  have level := level_of_shift hr (hl.doutOe_of_busy (by simp [hp])) hp hpix
  by_cases high : s.pc.tick.toNat < highTicks s.cfg (bitAt p s.pc)
  · omega
  · rw [if_neg high] at level
    have before := hk.inCell hp p hpix
    rw [lowTail_of_low (step_wireRev ht) level]
    omega

/-- The cursor never advances to the frame's first tick: its place rises. -/
theorem advance_ne_idle {s : State} (hl : LegalState s) (hp : s.phase = .shift) {c : Cursor}
    (ha : s.pc.advance s.cfg s.ledcnt = some c) : c ≠ Cursor.idle := by
  rintro rfl
  have rises := place_of_advance_some hl hp ha
  rw [place_idle] at rises
  omega

theorem gapKept_of_shiftTick {s t : State} (hl : LegalState s) (hk : GapKept s) (ht : step s = .next t)
    (hr : s.port.rst = false) (hp : s.phase = .shift) : GapKept t := by
  have busy : s.phase ≠ .idle := by simp [hp]
  have lowAfter {p : Pixel} := lowTail_after_shift hl hk ht hr hp (p := p)
  cases ha : s.pc.advance s.cfg s.ledcnt with
  | some c =>
    cases (step_of_busy hr busy (serialize_of_advance hl hp ha)).symm.trans ht
    refine gapKept_of_inFrame hp (advance_ne_idle hl hp ha) fun p hpix => ?_
    rcases advance_eq_some ha with ⟨htick, rfl⟩ | ⟨_, _, rfl⟩ | ⟨_, _, b, _, rfl⟩ | ⟨_, _, _, _, rfl⟩
    · exact (tick_succ hl.config htick).symm ▸ lowAfter hpix
    all_goals exact (Nat.zero_sub _).trans_le (Nat.zero_le _)
  | none =>
    obtain ⟨_, _, _, hlast⟩ := (advance_eq_none_iff hl hp).mp ha
    cases (step_of_busy hr busy (serialize_of_lastPlace hl hp ha)).symm.trans ht
    refine gapKept_of_gap rfl ?_
    have lowNow := lowAfter (pixel?_of_lt (hl.pix_lt hp))
    rw [hlast] at lowNow
    exact (Nat.sub_le_sub_left (highTicks_bounds hl.config _).2 _).trans lowNow

theorem gapKept_of_gapTick {s t : State} (hl : LegalState s) (hk : GapKept s) (ht : step s = .next t)
    (hr : s.port.rst = false) (hp : s.phase = .gap) : GapKept t := by
  have low := level_of_not_shift hr (hl.doutOe_of_busy (by simp [hp])) (by simp [hp])
  have longer := lowTail_of_low (step_wireRev ht) low
  have before := hk.inGap hp
  have cfg := step_keeps_cfg ht
  rcases Nat.lt_or_ge (s.gapcnt.toNat + 1) s.cfg.resetTicks with hlt | hge
  · obtain ⟨t', ht', _, hgap, hcount⟩ := gap_tick hl hr hp hlt
    cases ht'.symm.trans ht
    refine gapKept_of_gap hgap ?_
    rw [cfg, hcount, longer]
    omega
  · cases (gap_tick_last hr hp hge).symm.trans ht
    refine gapKept_of_idle rfl fun _ => ?_
    rw [cfg, longer]
    omega

/-! ### every tick, and the statements -/

theorem step_keeps_gap {s t : State} (hl : LegalState s) (hk : GapKept s) (ht : step s = .next t) : GapKept t := by
  cases hr : s.port.rst with
  | true =>
    refine gapKept_of_undriven ht (level_of_rst hr) ?_
    rw [step_of_rst hr] at ht
    cases ht
    rfl
  | false =>
    cases hp : s.phase with
    | idle =>
      by_cases hw : s.accepts = true ∧ s.mode = .ready ∧ s.port.cmdWord = 0x80000000#32
      · exact gapKept_of_write hl hk ht hw.1 hw.2.1 hw.2.2
      · exact gapKept_of_idleTick hk ht hr hp (step_keeps_idle hp (fun ha hm hword => hw ⟨ha, hm, hword⟩) ht)
    | shift => exact gapKept_of_shiftTick hl hk ht hr hp
    | gap => exact gapKept_of_gapTick hl hk ht hr hp

/-- Settles O53: nothing is on the record, so no cell. -/
theorem resetHasGap : Obligations.ResetHasGap := fun _ _ => gapInv_iff_gapKept.mpr (gapKept_of_idle rfl nofun)

/-- Settles O54: each kind of tick lengthens the low run as the relation asks, or puts a high or undriven level where it asks
nothing; the law is its clause about a frame's first tick. -/
theorem everyTickKeepsTheResetGap : Obligations.EveryTickKeepsTheResetGap := by
  refine ⟨fun s t hs hg ht => ?_, fun s hg hp hc hb => ?_⟩
  · exact gapInv_iff_gapKept.mpr (step_keeps_gap (inv_iff_legalState.mp hs) (gapInv_iff_gapKept.mp hg) ht)
  · have low := (gapInv_iff_gapKept.mp hg).frameStart hp hc hb
    rw [cellLow] at low
    omega

end Sys2Proof.Machine
end

section
/-! PROOFS. What a frame holds and how it reads as symbols (20_memory.md R33 to R36, 42_write_serializer.md R88, R89): bytes and
bits by their place, maximal runs where a level ends, runs read as symbols; then the three statements. -/

namespace Sys2Proof.Machine

/-! ### the frame's bytes and bits by place -/

/-- Byte `3 i + k` of the frame is wire byte `k` of pixel `i`. -/
theorem frameBytes_getElem? {s : State} {i : Nat} (hi : i < s.ledcnt.toNat) {p : Pixel} (hp : s.pixel? i = some p)
    (b : WireByte) : s.frameBytes[3 * i + b.bits.toNat]? = some (wireByte p b) := by
  have := wireByte_bits_le b
  have pixel : (s.pixels.take s.ledcnt.toNat)[i]? = some p := (List.getElem?_take_of_lt hi).trans hp
  rw [State.frameBytes, Nat.mul_comm, getElem?_flatMap_of_length pixelBytes_length _ _ (by omega), pixel, Option.bind_some,
    pixelBytes_getElem?]

theorem frameBits_getElem? (s : State) (j : Nat) {b : Nat} (hb : b < 8) :
    s.frameBits[8 * j + (7 - b)]? = (s.frameBytes[j]?).map (·.getLsbD b) := by
  rw [State.frameBits, Nat.mul_comm, getElem?_flatMap_of_length byteBits_length _ _ (by omega)]
  cases s.frameBytes[j]? with
  | none => rfl
  | some byte => exact byteBits_getElem? byte hb

/-- Settles O34: the lengths of equal pieces, and each piece at its place. -/
theorem frameContent : Obligations.FrameContent := by
  intro s hv
  refine ⟨frameBytes_length hv, frameBits_length hv, fun i hi => ?_, fun j b _ hb => frameBits_getElem? s j hb⟩
  have pixel := pixel?_of_lt (hi.trans_le hv)
  exact ⟨_, pixel, frameBytes_getElem? hi pixel .green, frameBytes_getElem? hi pixel .red,
    frameBytes_getElem? hi pixel .blue⟩

/-! ### maximal runs (R88) -/

/-- One more level in front of some runs: it lengthens the first or starts one of its own. -/
def pushLevel (l : Level) : List (Level × Nat) → List (Level × Nat)
  | [] => [(l, 1)]
  | (l', n) :: more => if l = l' then (l', n + 1) :: more else (l, 1) :: (l', n) :: more

theorem levelRuns_cons (l : Level) (rest : List Level) : levelRuns (l :: rest) = pushLevel l (levelRuns rest) := by
  rw [levelRuns]
  cases levelRuns rest <;> rfl

theorem pushLevel_same (l : Level) (n : Nat) (more : List (Level × Nat)) :
    pushLevel l ((l, n) :: more) = (l, n + 1) :: more := if_pos rfl

/-- The first run is of the first level. -/
theorem levelRuns_head (ls : List Level) : (levelRuns ls).head?.map Prod.fst = ls.head? := by
  cases ls with
  | nil => rfl
  | cons l rest =>
    rw [levelRuns_cons]
    rcases levelRuns rest with _ | ⟨⟨l', n⟩, more⟩
    · rfl
    · rw [pushLevel]
      split
      · next same => simp [same]
      · rfl

/-- A level other than the first run's starts a run of its own. -/
theorem pushLevel_levelRuns {l : Level} {rest : List Level} (h : rest.head? ≠ some l) :
    pushLevel l (levelRuns rest) = (l, 1) :: levelRuns rest := by
  have head := levelRuns_head rest
  rcases hruns : levelRuns rest with _ | ⟨⟨l', n⟩, more⟩
  · rfl
  · rw [hruns] at head
    exact if_neg fun same => h (by rw [← head, same]; rfl)

/-- Equal levels before another level, or before the end, are one run. -/
theorem levelRuns_replicate_append {l : Level} {rest : List Level} (h : rest.head? ≠ some l) {n : Nat} (hn : 0 < n) :
    levelRuns (List.replicate n l ++ rest) = (l, n) :: levelRuns rest := by
  induction n, hn using Nat.le_induction with
  | base => exact (levelRuns_cons l rest).trans (pushLevel_levelRuns h)
  | succ n _ ih => rw [List.replicate_succ, List.cons_append, levelRuns_cons, ih, pushLevel_same]

/-- The runs up to a low level stay as they are when something that is not low follows. -/
theorem levelRuns_append_low (pre : List Level) :
    ∃ runs n, ∀ rest : List Level, rest.head? ≠ some .low →
      levelRuns (pre ++ .low :: rest) = runs ++ (.low, n) :: levelRuns rest := by
  induction pre with
  | nil => exact ⟨[], 1, fun rest h => (levelRuns_cons _ rest).trans (pushLevel_levelRuns h)⟩
  | cons l pre ih =>
    obtain ⟨runs, n, hruns⟩ := ih
    have step (rest : List Level) (h : rest.head? ≠ some .low) :
        levelRuns (l :: pre ++ .low :: rest) = pushLevel l (runs ++ (.low, n) :: levelRuns rest) := by
      rw [List.cons_append, levelRuns_cons, hruns rest h]
    rcases runs with _ | ⟨⟨l', m⟩, runs⟩
    · by_cases same : l = .low
      · exact ⟨[], n + 1, fun rest h => (step rest h).trans (if_pos same)⟩
      · exact ⟨[(l, 1)], n, fun rest h => (step rest h).trans (if_neg same)⟩
    · by_cases same : l = l'
      · exact ⟨(l', m + 1) :: runs, n, fun rest h => (step rest h).trans (if_pos same)⟩
      · exact ⟨(l, 1) :: (l', m) :: runs, n, fun rest h => (step rest h).trans (if_neg same)⟩

/-! ### the runs of cells (R77) -/

theorem highTicks_pos {p : Params} (h : p.legal = true) (b : Bool) : 0 < highTicks p b :=
  (params_legal_iff.mp h).2.2.1.trans_le (highTicks_bounds h b).1

/-- With the bit rate kept a cell's low part is shorter than a reset gap (R88). -/
theorem lowTicks_lt_resetTicks {p : Params} (h : p.legal = true) (hrate : p.bitRateKept = true) (b : Bool) :
    p.cellTicks - highTicks p b < p.resetTicks :=
  (Nat.sub_le_sub_left (highTicks_bounds h b).1 _).trans_lt (low_run_below_gap h hrate)

/-- A cell is not empty, so what starts with one starts high. -/
theorem head?_cell_append {p : Params} (h : p.legal = true) (b : Bool) (rest : List Level) :
    (cell p b ++ rest).head? = some .high := by
  obtain ⟨n, hn⟩ := Nat.exists_eq_succ_of_ne_zero (highTicks_pos h b).ne'
  rw [cell, hn, List.replicate_succ]
  rfl

theorem cells_cons (p : Params) (b : Bool) (bits : List Bool) : cells p (b :: bits) = cell p b ++ cells p bits := rfl

theorem head?_cells_append_ne_low {p : Params} (h : p.legal = true) {bits : List Bool} (hb : bits ≠ []) (rest : List Level) :
    (cells p bits ++ rest).head? ≠ some .low := by
  obtain ⟨b, bits, rfl⟩ := List.exists_cons_of_ne_nil hb
  simp [cells_cons, head?_cell_append h]

theorem head?_cells_ne_low {p : Params} (h : p.legal = true) (bits : List Bool) : (cells p bits).head? ≠ some .low := by
  rcases eq_or_ne bits [] with rfl | hb
  · nofun
  · simpa using head?_cells_append_ne_low h hb []

/-- A cell's two runs; low levels after it lengthen the second. -/
theorem levelRuns_cell_append {p : Params} (h : p.legal = true) (b : Bool) (more : Nat) {rest : List Level}
    (hrest : rest.head? ≠ some .low) :
    levelRuns (cell p b ++ (List.replicate more .low ++ rest))
      = (.high, highTicks p b) :: (.low, p.cellTicks - highTicks p b + more) :: levelRuns rest := by
  have low := highTicks_lt_cell h b
  have joined : cell p b ++ (List.replicate more .low ++ rest)
      = List.replicate (highTicks p b) .high ++ (List.replicate (p.cellTicks - highTicks p b + more) .low ++ rest) := by
    simp only [cell, List.append_assoc, List.replicate_add]
  obtain ⟨n, hn⟩ := Nat.exists_eq_succ_of_ne_zero (show p.cellTicks - highTicks p b + more ≠ 0 by omega)
  rw [joined, levelRuns_replicate_append _ (highTicks_pos h b), levelRuns_replicate_append hrest (by omega)]
  rw [hn, List.replicate_succ]
  nofun

/-- The two runs of one cell. -/
def cellRuns (p : Params) (b : Bool) : List (Level × Nat) :=
  [(.high, highTicks p b), (.low, p.cellTicks - highTicks p b)]

theorem levelRuns_cells {p : Params} (h : p.legal = true) (bits : List Bool) :
    levelRuns (cells p bits) = bits.flatMap (cellRuns p) := by
  induction bits with
  | nil => rfl
  | cons b bits ih =>
    rw [cells_cons, List.flatMap_cons, ← ih]
    exact levelRuns_cell_append h b 0 (head?_cells_ne_low h bits)

/-- Settles O36: the runs of cells are the cells' own two runs. -/
theorem frameRunLengths : Obligations.FrameRunLengths := by
  intro p bits h hrate r hr
  rw [levelRuns_cells h, List.mem_flatMap] at hr
  obtain ⟨b, _, hr⟩ := hr
  simp only [cellRuns, List.mem_cons, List.not_mem_nil, or_false] at hr
  rcases hr with rfl | rfl
  · cases b
    · exact .inl ⟨rfl, .inl rfl⟩
    · exact .inl ⟨rfl, .inr rfl⟩
  · have short := lowTicks_lt_resetTicks h hrate b
    cases b
    · exact .inr ⟨rfl, .inr rfl, short⟩
    · exact .inr ⟨rfl, .inl rfl, short⟩

/-! ### runs read as symbols (R89) -/

/-- What a high run of `n` ticks reads as before the run `r`: its bit, and `Reset` when `r` is low for long enough. -/
def pulseSymbols (p : Params) (n : Nat) (r : Level × Nat) : List Symbol :=
  if r.1 = .low then runBit p n ++ (if runBit p n ≠ [] ∧ p.resetTicks ≤ r.2 then [.reset] else []) else []

theorem runSymbols_high_cons (p : Params) (n : Nat) (r : Level × Nat) (rest : List (Level × Nat)) :
    runSymbols p ((.high, n) :: r :: rest) = pulseSymbols p n r ++ runSymbols p (r :: rest) := by
  obtain ⟨l, m⟩ := r
  cases l <;> simp [runSymbols, pulseSymbols]

/-- Reading can be cut after a low run: only a high run looks at the run after it. -/
theorem runSymbols_append_low (p : Params) (runs : List (Level × Nat)) (n : Nat) (more : List (Level × Nat)) :
    runSymbols p (runs ++ (.low, n) :: more) = runSymbols p (runs ++ [(.low, n)]) ++ runSymbols p more := by
  induction runs with
  | nil => simp [runSymbols]
  | cons r runs ih =>
    obtain ⟨l, m⟩ := r
    cases l with
    | z => simpa [runSymbols] using ih
    | low => simpa [runSymbols] using ih
    | high =>
      rcases runs with _ | ⟨r, runs⟩ <;> simp only [List.cons_append, List.nil_append] at ih ⊢ <;>
        rw [runSymbols_high_cons, runSymbols_high_cons, ih, List.append_assoc]

theorem runBit_highTicks {p : Params} (h : p.legal = true) (b : Bool) : runBit p (highTicks p b) = [.bit b] := by
  have := params_legal_iff.mp h
  cases b
  · exact if_pos rfl
  · exact (if_neg (show ¬ p.t1h = p.t0h by omega)).trans (if_pos rfl)

/-- A cell reads as its bit, and a reset gap after it as `Reset`. -/
theorem runSymbols_cell {p : Params} (h : p.legal = true) (b : Bool) (n : Nat) (more : List (Level × Nat)) :
    runSymbols p ((.high, highTicks p b) :: (.low, n) :: more)
      = .bit b :: (if p.resetTicks ≤ n then [.reset] else []) ++ runSymbols p more := by
  rw [runSymbols_high_cons, pulseSymbols, runBit_highTicks h]
  simp [runSymbols]

/-- A frame's cells and its gap read as its bits and one `Reset`. -/
theorem symbols_frame {p : Params} (h : p.legal = true) (hrate : p.bitRateKept = true) {bits : List Bool} (hb : bits ≠ []) :
    symbols p (cells p bits ++ List.replicate p.resetTicks .low) = bits.map .bit ++ [.reset] := by
  induction bits with
  | nil => exact absurd rfl hb
  | cons b bits ih =>
    rw [cells_cons, List.append_assoc, symbols]
    cases bits with
    | nil =>
      have runs := levelRuns_cell_append h b p.resetTicks (rest := []) nofun
      rw [List.append_nil] at runs
      rw [cells, List.flatMap_nil, List.nil_append, runs, runSymbols_cell h, if_pos (Nat.le_add_left ..)]
      rfl
    | cons b' bits =>
      have high := head?_cells_append_ne_low h (bits := b' :: bits) nofun (List.replicate p.resetTicks .low)
      have short := Nat.not_le.mpr (lowTicks_lt_resetTicks h hrate b)
      have runs := levelRuns_cell_append h b 0 high
      rw [List.replicate_zero, List.nil_append, Nat.add_zero] at runs
      rw [runs, runSymbols_cell h, if_neg short, ← symbols, ih nofun]
      rfl

/-- Settles O35: the runs split where the frame's first cell rises, and each part reads on its own. -/
theorem frameSymbols : Obligations.FrameSymbols := by
  intro p pre bits h hrate hb
  obtain ⟨runs, n, hruns⟩ := levelRuns_append_low pre
  have high := head?_cells_append_ne_low h hb (List.replicate p.resetTicks .low)
  have before : symbols p (pre ++ [.low]) = runSymbols p (runs ++ [(.low, n)]) := by
    rw [symbols, hruns [] nofun]
    rfl
  have joined : pre ++ [.low] ++ cells p bits ++ List.replicate p.resetTicks .low
      = pre ++ .low :: (cells p bits ++ List.replicate p.resetTicks .low) := by simp
  rw [joined, symbols, hruns _ high, runSymbols_append_low, ← before, ← symbols, symbols_frame h hrate hb,
    List.append_assoc]

end Sys2Proof.Machine
end

section
/-! PROOFS. Commands that complete (40_driver_control.md section 1, 41_pixel_buffer.md sections 1 to 3, 42_write_serializer.md
section 1, 43_coordinate_mapper.md section 1) and the tick that runs one (30_encoding.md R64); the primitives on the buffer
(00_scope.md R11); then the statements. -/

namespace Sys2Proof.Machine

/-! ### the tick around a command -/

/-- Settles O8: the command unit runs what the word decodes to, and the end of the tick adds the record. -/
theorem stepRunsDecodedCommand : Obligations.StepRunsDecodedCommand := by
  intro s i ha hd
  rw [step_of_accepts ha, command_of_decode hd]
  cases exec i s with
  | next t => simp only [onNext, endTick, ha, if_true]
  | fault r => rfl
  | refused r => rfl

theorem decode_of_decodeTableWord {nbits w : Nat} {i : Instr} (h : decodeTableWord nbits w = some i) :
    decode (portWord nbits w) = .ok i := by
  unfold decodeTableWord at h
  split at h
  · cases hd : decode (portWord nbits w) with
    | ok j =>
      rw [hd] at h
      cases h
      rfl
    | error e =>
      rw [hd] at h
      cases h
  · cases h

/-- Settles O9: an idle block takes the word placed on its port, and the act that placed it is used up. -/
theorem placedTableWordRuns : Obligations.PlacedTableWordRuns := by
  intro s nbits w i hm hp hd
  have accepts : (s.withFetchWord nbits w).accepts = true := accepts_iff.mpr ⟨rfl, cmdReady_iff.mpr ⟨hm, hp, rfl⟩⟩
  have level : (s.withFetchWord nbits w).level = if s.doutOe then .low else .z := level_of_idle rfl hp
  have host : (s.withFetchWord nbits w).hostNext = s.host := if_pos accepts
  rw [stepRunsDecodedCommand _ i accepts (decode_of_decodeTableWord hd), level, host]
  rfl

/-! ### INIT, CLEAR, SETPIX, RDPIX, WRITE -/

/-- Settles O11: every check of INIT passes. -/
theorem initBringsTheBlockUp : Obligations.InitBringsTheBlockUp := fun _ pin _ h hm hlow hhigh htg =>
  exec_init_of_timingResource h hm pin (countBad_eq_false_iff.mpr ⟨hlow, hhigh⟩) htg

/-- Settles O16: every pixel CLEAR reaches has a register. -/
theorem clearZeroesTheBuffer : Obligations.ClearZeroesTheBuffer := by
  intro s h hm hl
  refine ⟨_, exec_clear_of_bufferReady ⟨h, hm, hl⟩, rfl, fun i => (clearBelow_getElem? ..).trans ?_⟩
  exact if_congr (and_iff_left_of_imp fun hi => hi.trans_le hl) rfl rfl

/-- Settles O17: the one register set is the index's. -/
theorem setpixWritesOnePixel : Obligations.SetpixWritesOnePixel := by
  intro s index r g b h hm hl hi
  refine ⟨_, exec_setpix_of_lt ⟨h, hm, hl⟩ hi r g b, rfl, ?_, fun j hj => ?_⟩
  · exact List.getElem?_set_self (hi.trans_le hl)
  · exact List.getElem?_set_ne hj.symm

/-- Settles O18: a visible pixel has a register, and RDPIX answers what stands in it. -/
theorem rdpixAnswersThePixel : Obligations.RdpixAnswersThePixel := by
  intro s index h hm hl hi
  have pixel := pixel?_of_lt (hi.trans_le hl)
  exact ⟨_, pixel, (exec_rdpix_eq_ok_iff ⟨h, hm, hl⟩).mpr ⟨hi, pixel⟩⟩

/-- Settles O27: past the gate and the mode check WRITE only starts the serializer. -/
theorem writeStartsTheFrame : Obligations.WriteStartsTheFrame := by
  intro s h hm
  rw [exec, execWrite, ifReady_of_cmdReady h, if_neg (not_not.mpr hm)]
  rfl

/-! ### MAP, and SETXY in the assembler -/

/-- A row is wired from its right end when its number is odd, that is when the low bit of `y` is set. -/
theorem rowPlace_eq_of_bit (x : Nat) (y : BitVec 3) :
    rowPlace x y.toNat = if y.getLsbD 0 = false then x else 4 - x := by
  have even : y.getLsbD 0 = false ↔ y.toNat % 2 = 0 := by simp [BitVec.getLsbD, Nat.testBit_zero]
  exact if_congr even.symm rfl rfl

/-- Settles O22: on the grid the index and the formula's subtrahend make 24. -/
theorem mapAnswersTheFormula : Obligations.MapAnswersTheFormula := by
  intro s x y h hx hy
  obtain ⟨d, answers, index⟩ := exec_map_of_onGrid h hx hy
  refine ⟨d, answers, ?_⟩
  rw [index, ← rowPlace_eq_of_bit]
  exact mapIndex_add hx hy

/-- Settles O26: 5 bits hold every index, and off the grid the line is not well-formed. -/
theorem setxyUsesTheMappersIndex : Obligations.SetxyUsesTheMappersIndex := by
  refine ⟨fun s x y r g b h hx hy => ⟨BitVec.ofNat 5 (mapIndex x.toNat y.toNat), ?_, ?_⟩, fun x y r g b hxy => ?_⟩
  · have fits : (AsmLine.setxy x.toNat y.toNat r.toNat g.toNat b.toNat).wellFormed = true := by
      simp [AsmLine.wellFormed, hx, hy, r.isLt, g.isLt, b.isLt]
    rw [assemble, if_pos fits]
    simp only [BitVec.ofNat_toNat, BitVec.setWidth_eq]
  · obtain ⟨d, answers, index⟩ := exec_map_of_onGrid h hx hy
    have small := mapIndex_le x.toNat y.toNat
    have same : (BitVec.ofNat 5 (mapIndex x.toNat y.toNat)).setWidth 24 = d := by
      apply BitVec.eq_of_toNat_eq
      rw [index, BitVec.toNat_setWidth, BitVec.toNat_ofNat]
      omega
    rw [same, answers]
  · have offGrid : ¬ (AsmLine.setxy x y r g b).wellFormed = true := by
      simp only [AsmLine.wellFormed, Bool.and_eq_true, decide_eq_true_eq]
      omega
    exact if_neg offGrid

/-! ### MemRead and MemWrite -/

theorem memRead_of_range {s : State} {i : BitVec 5} {n : Nat} (h : i.toNat + n ≤ s.ledcnt.toNat) :
    memRead i n s = .ok ((s.pixels.drop i.toNat).take n) := if_neg (Nat.not_lt.mpr h)

theorem memWrite_of_range {s : State} {i : BitVec 5} {vs : List Pixel} (h : i.toNat + vs.length ≤ s.ledcnt.toNat) :
    memWrite i vs s = .ok { s with pixels := putPixels i.toNat vs s.pixels } := if_neg (Nat.not_lt.mpr h)

theorem putPixels_getElem?_outside {vs v : List Pixel} {i j : Nat} (h : j < i ∨ i + vs.length ≤ j) :
    (putPixels i vs v)[j]? = v[j]? := by
  rw [putPixels_getElem?, if_neg (by omega)]

/-- What was put is what stands there, as long as there are registers for it. -/
theorem take_drop_putPixels {vs v : List Pixel} {i : Nat} (h : i + vs.length ≤ v.length) :
    ((putPixels i vs v).drop i).take vs.length = vs := by
  apply List.ext_getElem?
  intro k
  rcases Nat.lt_or_ge k vs.length with hk | hk
  · rw [List.getElem?_take_of_lt hk, List.getElem?_drop, putPixels_getElem?, if_pos (by omega), Nat.add_sub_cancel_left]
  · rw [List.getElem?_take_eq_none hk, List.getElem?_eq_none hk]

/-- Settles O21: the range check, the registers in order, and what a write puts read back. -/
theorem memReadWriteLaws : Obligations.MemReadWriteLaws := by
  intro s i
  refine ⟨fun n h => if_pos h, fun vs h => if_pos h, fun hl n h => ?_, fun hl vs h => ?_⟩
  · refine ⟨_, memRead_of_range h, ?_, fun k hk => ?_⟩
    · rw [List.length_take, List.length_drop]
      omega
    · rw [List.getElem?_take_of_lt hk, List.getElem?_drop]
      rfl
  · refine ⟨_, memWrite_of_range h, rfl, ?_, fun j hj => putPixels_getElem?_outside hj⟩
    rw [memRead_of_range (by exact h), take_drop_putPixels (h.trans hl)]

end Sys2Proof.Machine
end
